-- ==== Sys2Proof/Word.lean ====
section
/-! DEFINITION. The widths of the block's data and their plainest pieces (spec 00_scope R8, R9). -/

namespace Sys2Proof

/-- A byte, an unsigned 8-bit value (R9). -/
abbrev Byte := BitVec 8

/-- A 16-bit value: a command word, RDATA, CRC or TRL (R8). -/
abbrev Word := BitVec 16

/-- An address of the payload buffer, 7 bits, 0 to 127 (20_memory R50). -/
abbrev Addr := BitVec 7

/-- The error-detection mode (10_state R23): its two values, with the register's bit in `Mode.bit`. -/
inductive Mode where
  | checksum
  | crc16
  deriving DecidableEq, Repr

/-- The numeric code of MODE: 0 = Checksum, 1 = Crc16 (10_state R23, 30_encoding R76). -/
def Mode.bit : Mode → BitVec 1
  | .checksum => 0#1
  | .crc16 => 1#1

/-- `v[15:8]` of a 16-bit value (R9). -/
def Word.hi (w : Word) : Byte := w.extractLsb' 8 8

/-- `v[7:0]` of a 16-bit value (R9). -/
def Word.lo (w : Word) : Byte := w.extractLsb' 0 8

end Sys2Proof
end

