-- ==== Sys2Proof/Config.lean ====
section
/-! DEFINITION. The constants the spec fixes (00_scope R7, R8; 30_encoding R80) and the values it leaves open. -/

namespace Sys2Proof.Config

/-- PAYLOAD_LEN, 128 bytes (00_scope R7). -/
def payloadLen : Nat := 128

/-- CRC_POLY, 0x1021 (00_scope R7). -/
def crcPoly : Word := 0x1021#16

/-- CRC_INIT, 0x0000 (00_scope R7; 90_conflicts C1). -/
def crcInit : Word := 0x0000#16

/-- BLOCK_FIRST, the number of the first block of a transfer, supplied by the host (00_scope R7). -/
def blockFirst : Byte := 1#8

/-- SOH, the start marker of a data block (30_encoding R80). -/
def soh : Byte := 0x01#8

/-- EOT, end of data (30_encoding R80). -/
def eot : Byte := 0x04#8

/-- ACK, block or EOT accepted (30_encoding R80). -/
def ack : Byte := 0x06#8

/-- NAK, request retransmission, or request start in Checksum mode (30_encoding R80). -/
def nak : Byte := 0x15#8

/-- CAN, abort (30_encoding R80). -/
def can : Byte := 0x18#8

/-- PAD, the byte that fills the final short block (30_encoding R80). -/
def pad : Byte := 0x1A#8

/-- CRC_REQ, ASCII 'C', request start in Crc16 mode (30_encoding R80). -/
def crcReq : Byte := 0x43#8

/-- TRAILER_LEN(mode): 1 byte or 2 bytes (00_scope R7). -/
def trailerLen : Mode → Nat
  | .checksum => 1
  | .crc16 => 2

/-- FRAME_LEN(mode) = 3 + 128 + TRAILER_LEN(mode), counting the SOH: 132 or 133 (00_scope R7, 30_encoding R83). -/
def frameLen (m : Mode) : Nat := 3 + payloadLen + trailerLen m

/-- REM_LEN(mode) = FRAME_LEN(mode) - 1, the frame after its SOH: 131 or 132 (00_scope R7, 90_conflicts C2). -/
def remLen (m : Mode) : Nat := frameLen m - 1

/-- BLOCK_RETRIES, host only (00_scope R7). -/
def blockRetries : Nat := 10

/-- START_RETRIES, host only (00_scope R7). -/
def startRetries : Nat := 6

/-- FREE VALUE. PBUF_RESET (10_state R33, 93 U1): byte `a` of the payload buffer after the reset numbered `k`.
Any 128 bytes at each reset; nothing says which (log entry 5). -/
opaque pbufReset (k : Nat) (a : Nat) : Byte

/-- FREE VALUE. The byte ENC_POP answers at an index for which 42_framer_encode R136 gives none
(a CNT at or beyond FRAME_LEN, ruled out by 10_state R40 (b); log entry 8). -/
opaque frameByteBeyond (m : Mode) (k : Nat) : Byte

/-- OPEN PARAMETER. T_READ, the transport's read timeout, host model only (00_scope R8, 45 R191). -/
opaque tRead : Nat

end Sys2Proof.Config
end

