-- ==== Sys2Proof/Syntax.lean ====
section
/-! DEFINITION. The command set (30_encoding R72, opcode_table.json): one constructor a row, operands decoded. -/

namespace Sys2Proof

/-- The twenty commands. An operand has the width its format gives it (30_encoding R73 to R77), so that every
term is a well-formed command: a byte in format B, a 7-bit address in format A, a mode in format M. -/
inductive Instr where
  | nop
  | abort
  | errClr
  | setMode (m : Mode)
  | statusRd
  | bufRd (a : Addr)
  | sumClr
  | sumByte (b : Byte)
  | sumRd
  | crcClr
  | crcByte (b : Byte)
  | crcRd
  | encStart (n : Byte)
  | encData (b : Byte)
  | encEnd
  | encPop
  | decStart
  | decData (b : Byte)
  | decEnd
  | decBlkRd
  deriving DecidableEq, Repr

end Sys2Proof
end

