-- ==== Sys2Proof/Machine/State.lean ====
section
/-! DEFINITION. The block's state (10_state R20 to R38), the reasons a step can stop, and the state after reset. -/

namespace Sys2Proof.Machine

/-- PHASE, the framer's sequencing state (10_state R28). -/
inductive Phase where
  | idle
  | encFill
  | encOut
  | decIn
  deriving DecidableEq, Repr

/-- RES, the verdict of the last decode (10_state R29). The codes 5 to 7 are never produced (93 V4) and have no name. -/
inductive Verdict where
  | none
  | ok
  | badPair
  | trlMismatch
  | badLen
  deriving DecidableEq, Repr

/-- The cause of a refusal (60_exceptions R232). NO_ERROR is never raised: it is `none` in the field `errcode`. -/
inductive Cause where
  | illegalOpcode
  | badArg
  | wrongPhase
  | bufFull
  deriving DecidableEq, Repr

/-- The response to a command: RDATA and RERR (30_encoding R70, R78). -/
structure Response where
  rdata : Word
  rerr : Bool
  deriving DecidableEq, Repr

/-- What the host presents to the block: a command word (30_encoding R70) or a reset (70 R260). -/
inductive PortEvent where
  | command (w : Word)
  | reset
  deriving DecidableEq, Repr

/-- The payload buffer: the bytes written since the last reset, at strictly rising addresses (log entry 7). -/
abbrev Memory := List Host.Cell

/-- The twelve registers and the buffer of 10_state R20, and the model's own three fields. -/
structure State where
  /-- CRC, the CRC remainder of the bytes fed so far (10_state R21). -/
  crc : Word
  /-- SUM, the sum modulo 256 of the bytes fed so far (10_state R22). -/
  sum : Byte
  /-- MODE, the error-detection mode (10_state R23). -/
  mode : Mode
  /-- BLK, the block number of the frame being encoded or received (10_state R24). -/
  blk : Byte
  /-- CMP, the received block-number complement (10_state R25). -/
  cmp : Byte
  /-- TRL, the received trailer (10_state R26). -/
  trl : Word
  /-- CNT, the position inside the current frame operation (10_state R27). -/
  cnt : Byte
  /-- PHASE (10_state R28). -/
  phase : Phase
  /-- RES, the verdict of the last decode (10_state R29). -/
  res : Verdict
  /-- OVF, the decoder was given more bytes than a frame holds (10_state R30). -/
  ovf : Bool
  /-- ERR, a command has been refused since ERR was last cleared (10_state R31). -/
  err : Bool
  /-- ERRCODE, the cause of the first such refusal; `none` is NO_ERROR (10_state R32). -/
  errcode : Option Cause
  /-- PBUF (10_state R33): the bytes written since the last reset. -/
  pbuf : Memory
  /-- MODEL'S OWN. The host's events not yet taken, oldest first (log entry 1). -/
  port : List PortEvent
  /-- MODEL'S OWN. The responses given so far, oldest first (00_scope R13; log entry 2). -/
  responses : List Response
  /-- MODEL'S OWN. The number of resets taken, which picks the free values of PBUF_RESET (log entry 6). -/
  resets : Nat
  deriving DecidableEq, Repr

/-- Why the model stops. The block itself has no trap (60_exceptions R230). -/
inductive Fault where
  /-- Raised by `step` when the host has presented nothing: the block never acts on its own (00_scope R12).
  Safe: the model stops where the hardware waits (log entry 3). -/
  | portEmpty
  deriving DecidableEq, Repr

/-- Why the model gives an instruction no meaning. -/
inductive Refusal where
  /-- Raised by an arm of `exec` for an instruction without a meaning yet; no arm of this model raises it. Safe. -/
  | notModelled (mnemonic : String)
  deriving DecidableEq, Repr

/-- The state after reset (10_state R38), with nothing presented and nothing answered. PBUF holds PBUF_RESET:
no byte is listed (log entries 5 and 7). -/
def State.reset : State where
  crc := 0x0000#16
  sum := 0x00#8
  mode := .checksum
  blk := 0x00#8
  cmp := 0x00#8
  trl := 0x0000#16
  cnt := 0x00#8
  phase := .idle
  res := .none
  ovf := false
  err := false
  errcode := Option.none
  pbuf := []
  port := []
  responses := []
  resets := 0

/-- What one step or one meaning answers. -/
abbrev Result := Host.Outcome State Fault Refusal

end Sys2Proof.Machine
end

