-- ==== Sys2Proof/Machine/Operands.lean ====
section
/-! DEFINITION. Operand and address forms: zero extension of a byte to RDATA (30_encoding R77, R78) and the buffer
addresses formed from CNT (20_memory R51). -/

namespace Sys2Proof.Machine

/-- zext_16 of a byte (00_scope R9, 30_encoding R78). -/
def zext (b : Byte) : Word := b.setWidth 16

/-- The buffer address with number `i`; every use has `i` in 0 to 127 (20_memory R56). -/
def bufAddr (i : Nat) : Addr := BitVec.ofNat 7 i

/-- The address ENC_DATA writes: CNT (20_memory R51). -/
def fillAddr (cnt : Byte) : Addr := bufAddr cnt.toNat

/-- The address ENC_POP reads at frame index `k`, 3 to 130: `k` - 3 (20_memory R51). -/
def popAddr (k : Nat) : Addr := bufAddr (k - 3)

/-- The address DEC_DATA writes at position CNT, 2 to 129: CNT - 2 (20_memory R51). -/
def recvAddr (cnt : Byte) : Addr := bufAddr (cnt.toNat - 2)

/-- DEC_DATA stores a payload byte exactly when 2 <= CNT <= 129 (20_memory R51, 43 R152). -/
def recvStores (cnt : Byte) : Bool := decide (2 ≤ cnt.toNat ∧ cnt.toNat ≤ 129)

end Sys2Proof.Machine
end

