-- ==== Sys2Proof/Machine/Flags.lean ====
section
/-! DEFINITION. Codes of the named registers, the status word (10_state R34), the refusal record (60 R231) and the
decoder's verdict (43 R155). -/

namespace Sys2Proof.Machine

/-- The code of PHASE (10_state R28). -/
def Phase.code : Phase → BitVec 2
  | .idle => 0#2
  | .encFill => 1#2
  | .encOut => 2#2
  | .decIn => 3#2

/-- The code of RES (10_state R29). -/
def Verdict.code : Verdict → BitVec 3
  | .none => 0#3
  | .ok => 1#3
  | .badPair => 2#3
  | .trlMismatch => 3#3
  | .badLen => 4#3

/-- The code of a refusal's cause (60_exceptions R232). -/
def Cause.code : Cause → BitVec 3
  | .illegalOpcode => 1#3
  | .badArg => 2#3
  | .wrongPhase => 3#3
  | .bufFull => 4#3

/-- The code held in ERRCODE; NO_ERROR is 0 (60_exceptions R232). -/
def errcodeBits : Option Cause → BitVec 3
  | Option.none => 0#3
  | some c => c.code

/-- A one-bit flag as its bit. -/
def flagBit (f : Bool) : BitVec 1 := BitVec.ofBool f

/-- STATUS, assembled from the registers (10_state R34). -/
def statusWord (s : State) : Word :=
  s.phase.code.setWidth 16 + (s.mode.bit.setWidth 16 <<< 2) + ((flagBit s.err).setWidth 16 <<< 3)
    + ((errcodeBits s.errcode).setWidth 16 <<< 4) + ((flagBit s.ovf).setWidth 16 <<< 7)
    + (s.res.code.setWidth 16 <<< 8)

/-- ERRCODE after a refusal: the first cause since ERR was last 0 is kept (60_exceptions R231 (b)). -/
def errcodeAfter (err : Bool) (old : Option Cause) (c : Cause) : Option Cause :=
  if err then old else some c

/-- The received trailer differs from the recomputed one (43_framer_decode R155, line 3). -/
def trailerDiffers (s : State) : Bool :=
  match s.mode with
  | .checksum => s.trl.lo != s.sum
  | .crc16 => s.trl != s.crc

/-- verdict(), first matching line wins (43_framer_decode R155). -/
def verdict (s : State) : Verdict :=
  if s.ovf = true ∨ s.cnt.toNat ≠ Config.remLen s.mode then .badLen
  else if s.blk + s.cmp ≠ 255#8 then .badPair
  else if trailerDiffers s then .trlMismatch
  else .ok

end Sys2Proof.Machine
end

