-- ==== Sys2Proof/Machine/Functions.lean ====
section
/-! DEFINITION. The pure functions of the spec: checksum8, crc_update, crc16, pad_to_128, encode, decode
(40 R100; 41 R110, R111; 42 R130, R131; 43 R150). -/

namespace Sys2Proof.Machine

/-- checksum8(d), the sum of all bytes modulo 256 (40_checksum8 R100). -/
def checksum8 (d : List Byte) : Byte := d.foldl (fun s b => s + b) 0x00#8

/-- One shift step of crc_update: the top bit decides whether the polynomial is XORed in (41_crc16 R111). -/
def crcShift (c : Word) : Word :=
  if c.extractLsb' 15 1 = 1#1 then (c <<< 1) ^^^ Config.crcPoly else c <<< 1

/-- `n` shift steps. -/
def crcShifts : Nat → Word → Word
  | 0, c => c
  | n + 1, c => crcShifts n (crcShift c)

/-- crc_update(c, b): the byte meets the top 8 bits, then eight shift steps (41_crc16 R111). -/
def crcUpdate (c : Word) (b : Byte) : Word := crcShifts 8 (c ^^^ (b.setWidth 16 <<< 8))

/-- crc16(d), the fold of crc_update from 0x0000, nothing done to the final value (41_crc16 R110, R111). -/
def crc16 (d : List Byte) : Word := d.foldl crcUpdate Config.crcInit

/-- pad_to_128(p) = p ++ rep(0x1A, 128 - len(p)) for 0 <= len(p) <= 128 (42_framer_encode R131). DESIGN CHOICE: a longer
payload is outside the function's domain, and this total function answers it whole and unpadded (log entry 27). -/
def padTo128 (p : List Byte) : List Byte := p ++ List.replicate (Config.payloadLen - p.length) Config.pad

/-- The trailer of a frame over its padded payload: checksum8, or crc16 most significant byte first
(42_framer_encode R130, 90_conflicts C3). -/
def trailer (m : Mode) (q : List Byte) : List Byte :=
  match m with
  | .checksum => [checksum8 q]
  | .crc16 => [(crc16 q).hi, (crc16 q).lo]

/-- (255 - n) mod 256, the block-number complement (30_encoding R82). -/
def complement (n : Byte) : Byte := 255#8 - n

/-- encode(mode, block_number, payload) (42_framer_encode R130). Its domain is a payload of at most 128 bytes; for a
longer one the frame is longer (log entry 27). -/
def encodeFrame (m : Mode) (n : Byte) (p : List Byte) : List Byte :=
  [Config.soh, n, complement n] ++ padTo128 p ++ trailer m (padTo128 p)

/-- The three frame errors of the source (60_exceptions R236). -/
inductive FrameError where
  | unexpectedLength
  | badBlockNumberPair
  | checksumMismatch
  deriving DecidableEq, Repr

/-- What `decode` answers: Ok(DecodedBlock(n, q)) or Err(e) (43_framer_decode R150). -/
inductive DecodeResult where
  | ok (n : Byte) (q : List Byte)
  | err (e : FrameError)
  deriving DecidableEq, Repr

/-- decode(mode, raw_frame), the frame after its SOH (43_framer_decode R150): length, then pair, then trailer. -/
def decodeFrame (m : Mode) (f : List Byte) : DecodeResult :=
  if f.length ≠ Config.remLen m then .err .unexpectedLength
  else if f.getD 0 0 + f.getD 1 0 ≠ 255#8 then .err .badBlockNumberPair
  else if f.drop 130 ≠ trailer m ((f.drop 2).take Config.payloadLen) then .err .checksumMismatch
  else .ok (f.getD 0 0) ((f.drop 2).take Config.payloadLen)

/-- The code DEC_END answers for a result of `decode` (43_framer_decode R156). -/
def DecodeResult.code : DecodeResult → Word
  | .ok _ _ => 1#16
  | .err .badBlockNumberPair => 2#16
  | .err .checksumMismatch => 3#16
  | .err .unexpectedLength => 4#16

/-- The bits of a message, bit 7 of the first byte first (41_crc16 R112). -/
def messageBits (d : List Byte) : List Bool :=
  d.flatMap fun b => (List.range 8).map fun i => b.getLsbD (7 - i)

end Sys2Proof.Machine
end

