-- ==== Sys2Proof/Machine/Ops.lean ====
section
/-! DEFINITION. The shared operations: the payload buffer, the accumulators, answering, refusing (the block's one
exception, 60 R231), and reset (70 R260). -/

namespace Sys2Proof.Machine

/-- The byte last written at an address since the last reset, if any. -/
def Memory.get? : Memory → Nat → Option Byte
  | [], _ => Option.none
  | (x, v) :: m, a => if x = a then some v else Memory.get? m a

/-- Write one byte, keeping the addresses strictly rising. -/
def Memory.write : Memory → Nat → Byte → Memory
  | [], a, b => [(a, b)]
  | (x, v) :: m, a, b =>
    if a < x then (a, b) :: (x, v) :: m
    else if a = x then (a, b) :: m
    else (x, v) :: Memory.write m a b

/-- The addresses are strictly rising and none is below `lo`. -/
def Memory.risingFrom (lo : Nat) : Memory → Bool
  | [] => true
  | (x, _) :: m => decide (lo ≤ x) && Memory.risingFrom (x + 1) m

/-- The canonical form: addresses strictly rising, all in 0 to 127 (20_memory R50, R56). An unlisted address is one
not written since reset, so no entry can equal what an unlisted address holds (log entry 7). -/
def Memory.wf (m : Memory) : Bool := Memory.risingFrom 0 m && m.all fun c => decide (c.1 < 128)

/-- What an address that no command has written since the last reset reads as: the byte of PBUF_RESET, a free value
(10_state R33, 93 U1). -/
def State.unwritten (s : State) (a : Addr) : Byte := Config.pbufReset s.resets a.toNat

/-- MemRead(a, 1) = PBUF[a] (00_scope R9, 20_memory R56). -/
def State.readBuf (s : State) (a : Addr) : Byte := (Memory.get? s.pbuf a.toNat).getD (s.unwritten a)

/-- MemWrite(a, 1, b): PBUF[a] <- b (00_scope R9). -/
def storeBuf (a : Addr) (b : Byte) (s : State) : State :=
  { s with pbuf := Memory.write s.pbuf a.toNat b }

/-- Both accumulators take one payload byte, whatever MODE is (42 R133, 43 R152). -/
def feed (b : Byte) (s : State) : State :=
  { s with crc := crcUpdate s.crc b, sum := s.sum + b }

/-- respond(v): RDATA = v, RERR = 0 (00_scope R9, 30_encoding R78). -/
def respond (v : Word) (s : State) : State :=
  { s with responses := s.responses ++ [⟨v, false⟩] }

/-- The response of an accepted command whose rule has no `respond`: RDATA = 0x0000 (30_encoding R78). -/
def accept (s : State) : State := respond 0x0000#16 s

/-- raise Refusal(cause), the block's one exception (60_exceptions R231): only ERR and ERRCODE change, the first cause
is kept, and the response is (cause, RERR = 1). There is nothing to return from (R235). -/
def raiseRefusal (c : Cause) (s : State) : State :=
  { s with
    err := true
    errcode := errcodeAfter s.err s.errcode c
    responses := s.responses ++ [⟨c.code.setWidth 16, true⟩] }

/-- A command accepted in one phase only: refused with WRONG_PHASE in the others (60_exceptions R232, R234). -/
def inPhase (p : Phase) (s : State) (t : State) : Result :=
  .next (if s.phase = p then t else raiseRefusal .wrongPhase s)

/-- reset (70 R260, R261): every register takes its reset value, PBUF takes PBUF_RESET, no response is given.
The host's pending events and the responses it has had are not the block's (log entry 13). -/
def resetBlock (s : State) : State :=
  { State.reset with port := s.port, responses := s.responses, resets := s.resets + 1 }

end Sys2Proof.Machine
end

