-- ==== Sys2Proof/Machine/Checksum.lean ====
section
/-! DEFINITION. The 8-bit additive checksum accumulator (40_checksum8 R101 to R103). -/

namespace Sys2Proof.Machine

/-- SUM_CLR: set the accumulator to zero (R101). -/
def execSumClr (s : State) : Result := inPhase .idle s (accept { s with sum := 0x00#8 })

/-- SUM_BYTE b: add one byte modulo 256 (R102). -/
def execSumByte (b : Byte) (s : State) : Result := inPhase .idle s (accept { s with sum := s.sum + b })

/-- SUM_RD: read the accumulator (R103). -/
def execSumRd (s : State) : Result := .next (respond (zext s.sum) s)

end Sys2Proof.Machine
end

