-- ==== Sys2Proof/Machine/Control.lean ====
section
/-! DEFINITION. The control and status commands (44_control_status R170 to R175). -/

namespace Sys2Proof.Machine

/-- NOP: do nothing (R170). -/
def execNop (s : State) : Result := .next (accept s)

/-- ABORT: abandon the frame operation in progress (R171). -/
def execAbort (s : State) : Result :=
  .next (accept { s with phase := .idle, res := .none, ovf := false })

/-- ERR_CLR: clear the sticky refusal record (R172). -/
def execErrClr (s : State) : Result :=
  .next (accept { s with err := false, errcode := Option.none })

/-- SET_MODE m: select the error-detection mode (R173). -/
def execSetMode (m : Mode) (s : State) : Result :=
  inPhase .idle s (accept { s with mode := m })

/-- STATUS_RD: read the status word (R174). -/
def execStatusRd (s : State) : Result := .next (respond (statusWord s) s)

/-- BUF_RD a: read one byte of the payload buffer (R175). -/
def execBufRd (a : Addr) (s : State) : Result :=
  inPhase .idle s (respond (zext (s.readBuf a)) s)

end Sys2Proof.Machine
end

