-- ==== Sys2Proof/Machine/Crc.lean ====
section
/-! DEFINITION. The CRC-16 generator (41_crc16 R113 to R115). -/

namespace Sys2Proof.Machine

/-- CRC_CLR: load the initial value (R113). -/
def execCrcClr (s : State) : Result := inPhase .idle s (accept { s with crc := Config.crcInit })

/-- CRC_BYTE b: feed one byte (R114). -/
def execCrcByte (b : Byte) (s : State) : Result :=
  inPhase .idle s (accept { s with crc := crcUpdate s.crc b })

/-- CRC_RD: read the remainder, no final XOR (R115). -/
def execCrcRd (s : State) : Result := .next (respond s.crc s)

end Sys2Proof.Machine
end

