-- ==== Sys2Proof/Machine/Decoder.lean ====
section
/-! DEFINITION. The framer, decode side (43_framer_decode R151 to R155). -/

namespace Sys2Proof.Machine

/-- DEC_START: begin decoding a frame remainder (R151). -/
def execDecStart (s : State) : Result :=
  inPhase .idle s (accept { s with
    cnt := 0x00#8, crc := Config.crcInit, sum := 0x00#8, trl := 0x0000#16, res := .none, ovf := false,
    phase := .decIn })

/-- TRL when the trailer byte `b` arrives at position `k` (R152, 10_state R26): the one byte of Checksum mode in
TRL[7:0]; the first byte of Crc16 mode in TRL[15:8], the second in TRL[7:0]. -/
def trlAfter (m : Mode) (k : Nat) (b : Byte) (trl : Word) : Word :=
  match m with
  | .checksum => if k = 130 then zext b else trl
  | .crc16 => if k = 130 then b ++ trl.lo else if k = 131 then trl.hi ++ b else trl

/-- A payload byte is stored at CNT - 2 and fed to both accumulators, when 2 <= CNT <= 129 (R152). -/
def recvPayload (b : Byte) (s : State) : State :=
  if recvStores s.cnt then feed b (storeBuf (recvAddr s.cnt) b s) else s

/-- One byte of the frame remainder that is not yet full (R152). -/
def recvByte (b : Byte) (s : State) : State :=
  { recvPayload b s with
    blk := if s.cnt.toNat = 0 then b else s.blk
    cmp := if s.cnt.toNat = 1 then b else s.cmp
    trl := trlAfter s.mode s.cnt.toNat b s.trl
    cnt := s.cnt + 1 }

/-- DEC_DATA b: the next byte of the frame remainder; an excess byte is discarded and recorded in OVF (R152). -/
def execDecData (b : Byte) (s : State) : Result :=
  inPhase .decIn s (accept (if s.cnt.toNat = Config.remLen s.mode then { s with ovf := true } else recvByte b s))

/-- DEC_END: close the frame remainder and give the verdict (R153). -/
def execDecEnd (s : State) : Result :=
  inPhase .decIn s (respond ((verdict s).code.setWidth 16) { s with res := verdict s, phase := .idle })

/-- DEC_BLK_RD: read the block number register (R154). -/
def execDecBlkRd (s : State) : Result := .next (respond (zext s.blk) s)

end Sys2Proof.Machine
end

