-- ==== Sys2Proof/Machine/Encoder.lean ====
section
/-! DEFINITION. The framer, encode side (42_framer_encode R132 to R136). -/

namespace Sys2Proof.Machine

/-- ENC_START n: begin encoding the frame of block n (R132). -/
def execEncStart (n : Byte) (s : State) : Result :=
  inPhase .idle s (accept { s with
    blk := n, cnt := 0x00#8, crc := Config.crcInit, sum := 0x00#8, res := .none, ovf := false, phase := .encFill })

/-- One payload byte enters the encoder: stored at CNT, fed to both accumulators, CNT advanced (R133). -/
def fillByte (b : Byte) (s : State) : State :=
  { feed b (storeBuf (fillAddr s.cnt) b s) with cnt := s.cnt + 1 }

/-- ENC_DATA b: append one payload byte; BUF_FULL when there is no room (R133, 60 R234; log entry 9). -/
def execEncData (b : Byte) (s : State) : Result :=
  inPhase .encFill s (if s.cnt.toNat < Config.payloadLen then accept (fillByte b s) else raiseRefusal .bufFull s)

/-- The loop of ENC_END: `n` pad bytes at addresses `i`, `i` + 1, ..., each stored and fed (R134). -/
def padFrom (i : Nat) : Nat → State → State
  | 0, s => s
  | n + 1, s => padFrom (i + 1) n (feed Config.pad (storeBuf (bufAddr i) Config.pad s))

/-- ENC_END: pad the payload from CNT to 127 and close the frame (R134). -/
def execEncEnd (s : State) : Result :=
  inPhase .encFill s (accept { padFrom s.cnt.toNat (Config.payloadLen - s.cnt.toNat) s with
    cnt := 0x00#8, phase := .encOut })

/-- frame_byte(k) for 0 <= k < FRAME_LEN(MODE), read from the registers (R136); beyond it the spec gives no byte and
the model takes a free value (log entry 8). -/
def frameByte (s : State) (k : Nat) : Byte :=
  if k = 0 then Config.soh
  else if k = 1 then s.blk
  else if k = 2 then complement s.blk
  else if k ≤ 130 then s.readBuf (popAddr k)
  else match s.mode with
    | .checksum => if k = 131 then s.sum else Config.frameByteBeyond .checksum k
    | .crc16 =>
      if k = 131 then s.crc.hi else if k = 132 then s.crc.lo else Config.frameByteBeyond .crc16 k

/-- ENC_POP: return the next byte of the frame; the pop of the last byte returns the phase to IDLE (R135). -/
def execEncPop (s : State) : Result :=
  inPhase .encOut s (respond (zext (frameByte s s.cnt.toNat)) { s with
    cnt := s.cnt + 1
    phase := if s.cnt.toNat + 1 = Config.frameLen s.mode then .idle else .encOut })

end Sys2Proof.Machine
end

