-- ==== Sys2Proof/Machine/Dispatch.lean ====
section
/-! DEFINITION. One arm per command: its meaning. -/

namespace Sys2Proof.Machine

-- the meaning of each command, one direct call an arm
def exec (i : Instr) (s : State) : Host.Outcome State Fault Refusal :=
  match i with
  -- control and status (44_control_status)
  | .nop => Sys2Proof.Machine.execNop s
  | .abort => Sys2Proof.Machine.execAbort s
  | .errClr => Sys2Proof.Machine.execErrClr s
  | .setMode m => Sys2Proof.Machine.execSetMode m s
  | .statusRd => Sys2Proof.Machine.execStatusRd s
  | .bufRd a => Sys2Proof.Machine.execBufRd a s
  -- the checksum accumulator (40_checksum8)
  | .sumClr => Sys2Proof.Machine.execSumClr s
  | .sumByte b => Sys2Proof.Machine.execSumByte b s
  | .sumRd => Sys2Proof.Machine.execSumRd s
  -- the CRC generator (41_crc16)
  | .crcClr => Sys2Proof.Machine.execCrcClr s
  | .crcByte b => Sys2Proof.Machine.execCrcByte b s
  | .crcRd => Sys2Proof.Machine.execCrcRd s
  -- the encoder (42_framer_encode)
  | .encStart n => Sys2Proof.Machine.execEncStart n s
  | .encData b => Sys2Proof.Machine.execEncData b s
  | .encEnd => Sys2Proof.Machine.execEncEnd s
  | .encPop => Sys2Proof.Machine.execEncPop s
  -- the decoder (43_framer_decode)
  | .decStart => Sys2Proof.Machine.execDecStart s
  | .decData b => Sys2Proof.Machine.execDecData b s
  | .decEnd => Sys2Proof.Machine.execDecEnd s
  | .decBlkRd => Sys2Proof.Machine.execDecBlkRd s

end Sys2Proof.Machine
end

