-- ==== Sys2Proof/WellFormed.lean ====
section
/-! DEFINITION. Which command words are well formed: the opcode table as match and mask (30_encoding R72), and the
checks on a word's fields (R73 to R76, R79). `Instr` needs no check of its own: its operands have exactly the widths
of their fields (log entry 14). -/

namespace Sys2Proof

/-- OP, bits 15:8 of a command word (30_encoding R71). -/
def opField (w : Word) : Byte := w.extractLsb' 8 8

/-- ARG, bits 7:0 of a command word (30_encoding R71). -/
def argField (w : Word) : Byte := w.extractLsb' 0 8

/-- CMD = (OP << 8) + ARG (30_encoding R71). -/
def cmdWord (op arg : Byte) : Word := op ++ arg

/-- The four formats of a command word (30_encoding R73 to R76). -/
inductive Format where
  | n
  | b
  | a
  | m
  deriving DecidableEq, Repr

/-- The mask of a format (30_encoding R73 to R76). -/
def Format.mask : Format → Word
  | .n => 0xFFFF#16
  | .b => 0xFF00#16
  | .a => 0xFF80#16
  | .m => 0xFFFE#16

/-- The reserved bits of ARG in a format, which must be 0 (30_encoding R73 to R76). -/
def Format.reservedArg : Format → Byte
  | .n => 0xFF#8
  | .b => 0x00#8
  | .a => 0x80#8
  | .m => 0xFE#8

/-- One row of the table of 30_encoding R72: a word W encodes the command exactly when (W AND mask) = match. -/
structure OpcodeRow where
  mnemonic : String
  op : Byte
  format : Format
  deriving DecidableEq, Repr

/-- The `match` column of a row: the opcode with a zero argument. -/
def OpcodeRow.matchWord (r : OpcodeRow) : Word := cmdWord r.op 0x00#8

/-- The table of 30_encoding R72: the control and status commands. -/
def controlRows : List OpcodeRow :=
  [⟨"NOP", 0x00#8, .n⟩, ⟨"ABORT", 0x01#8, .n⟩, ⟨"ERR_CLR", 0x02#8, .n⟩,
   ⟨"SET_MODE", 0x03#8, .m⟩, ⟨"STATUS_RD", 0x04#8, .n⟩, ⟨"BUF_RD", 0x05#8, .a⟩]

/-- The table of 30_encoding R72: the two standalone units. -/
def unitRows : List OpcodeRow :=
  [⟨"SUM_CLR", 0x10#8, .n⟩, ⟨"SUM_BYTE", 0x11#8, .b⟩, ⟨"SUM_RD", 0x12#8, .n⟩,
   ⟨"CRC_CLR", 0x20#8, .n⟩, ⟨"CRC_BYTE", 0x21#8, .b⟩, ⟨"CRC_RD", 0x22#8, .n⟩]

/-- The table of 30_encoding R72: the framer. -/
def framerRows : List OpcodeRow :=
  [⟨"ENC_START", 0x30#8, .b⟩, ⟨"ENC_DATA", 0x31#8, .b⟩, ⟨"ENC_END", 0x32#8, .n⟩, ⟨"ENC_POP", 0x33#8, .n⟩,
   ⟨"DEC_START", 0x40#8, .n⟩, ⟨"DEC_DATA", 0x41#8, .b⟩, ⟨"DEC_END", 0x42#8, .n⟩, ⟨"DEC_BLK_RD", 0x43#8, .n⟩]

/-- The whole table of 30_encoding R72, twenty rows. -/
def opcodeTable : List OpcodeRow := controlRows ++ unitRows ++ framerRows

/-- The word matches the row (30_encoding R72). -/
def OpcodeRow.matches (r : OpcodeRow) (w : Word) : Bool := (w &&& r.format.mask) == r.matchWord

/-- Check 1: OP is one of the twenty opcodes (30_encoding R79). -/
def opcodeDefined (w : Word) : Bool := opcodeTable.any fun r => r.op == opField w

/-- Checks 2 to 4: no reserved bit of ARG is set in the format of the word's opcode (30_encoding R73, R75, R76). -/
def reservedArgZero (w : Word) : Bool :=
  opcodeTable.all fun r => r.op != opField w || (argField w &&& r.format.reservedArg) == 0x00#8

/-- A word is well formed when both checks pass (30_encoding R79). -/
def wellFormedWord (w : Word) : Bool := opcodeDefined w && reservedArgZero w

end Sys2Proof
end

