-- ==== Sys2Proof/Decode.lean ====
section
/-! DEFINITION. The decoder, total on all 65536 words (30_encoding R72, R79), and after it the encoder. -/

namespace Sys2Proof

/-- What a command word is: exactly one command, or a refusal with one of two causes (30_encoding R79). -/
inductive Decoded where
  | instr (i : Instr)
  | illegalOpcode
  | badArg
  deriving DecidableEq, Repr

/-- Format N: ARG must be 0x00 (30_encoding R73). -/
def decodeN (arg : Byte) (i : Instr) : Decoded :=
  if arg = 0x00#8 then .instr i else .badArg

/-- Format B: ARG whole, every value legal (30_encoding R74). -/
def decodeB (arg : Byte) (mk : Byte → Instr) : Decoded := .instr (mk arg)

/-- Format A: ARG[6:0] is the address, ARG[7] must be 0 (30_encoding R75). -/
def decodeA (arg : Byte) (mk : Addr → Instr) : Decoded :=
  if arg.extractLsb' 7 1 = 0#1 then .instr (mk (arg.extractLsb' 0 7)) else .badArg

/-- Format M: ARG[0] is the mode, ARG[7:1] must be 0 (30_encoding R76). -/
def decodeM (arg : Byte) (mk : Mode → Instr) : Decoded :=
  if arg.extractLsb' 1 7 = 0#7 then
    .instr (mk (if arg.extractLsb' 0 1 = 1#1 then .crc16 else .checksum))
  else .badArg

/-- The decoder over the two fields of the word (30_encoding R72). The opcode is looked at before the argument
(60_exceptions R233). -/
def decodeFields (op arg : Byte) : Decoded :=
  if op = 0x00#8 then decodeN arg .nop
  else if op = 0x01#8 then decodeN arg .abort
  else if op = 0x02#8 then decodeN arg .errClr
  else if op = 0x03#8 then decodeM arg .setMode
  else if op = 0x04#8 then decodeN arg .statusRd
  else if op = 0x05#8 then decodeA arg .bufRd
  else if op = 0x10#8 then decodeN arg .sumClr
  else if op = 0x11#8 then decodeB arg .sumByte
  else if op = 0x12#8 then decodeN arg .sumRd
  else if op = 0x20#8 then decodeN arg .crcClr
  else if op = 0x21#8 then decodeB arg .crcByte
  else if op = 0x22#8 then decodeN arg .crcRd
  else if op = 0x30#8 then decodeB arg .encStart
  else if op = 0x31#8 then decodeB arg .encData
  else if op = 0x32#8 then decodeN arg .encEnd
  else if op = 0x33#8 then decodeN arg .encPop
  else if op = 0x40#8 then decodeN arg .decStart
  else if op = 0x41#8 then decodeB arg .decData
  else if op = 0x42#8 then decodeN arg .decEnd
  else if op = 0x43#8 then decodeN arg .decBlkRd
  else .illegalOpcode

/-- The decoder (30_encoding R71, R72, R79). -/
def decode (w : Word) : Decoded := decodeFields (opField w) (argField w)

/-- The command word of an instruction, from the same tables (30_encoding R71 to R76). -/
def encode : Instr → Word
  | .nop => cmdWord 0x00#8 0x00#8
  | .abort => cmdWord 0x01#8 0x00#8
  | .errClr => cmdWord 0x02#8 0x00#8
  | .setMode m => cmdWord 0x03#8 (0#7 ++ m.bit)
  | .statusRd => cmdWord 0x04#8 0x00#8
  | .bufRd a => cmdWord 0x05#8 (0#1 ++ a)
  | .sumClr => cmdWord 0x10#8 0x00#8
  | .sumByte b => cmdWord 0x11#8 b
  | .sumRd => cmdWord 0x12#8 0x00#8
  | .crcClr => cmdWord 0x20#8 0x00#8
  | .crcByte b => cmdWord 0x21#8 b
  | .crcRd => cmdWord 0x22#8 0x00#8
  | .encStart n => cmdWord 0x30#8 n
  | .encData b => cmdWord 0x31#8 b
  | .encEnd => cmdWord 0x32#8 0x00#8
  | .encPop => cmdWord 0x33#8 0x00#8
  | .decStart => cmdWord 0x40#8 0x00#8
  | .decData b => cmdWord 0x41#8 b
  | .decEnd => cmdWord 0x42#8 0x00#8
  | .decBlkRd => cmdWord 0x43#8 0x00#8

/-- The command word whose bits, numbered as opcode_table.json numbers them, are those of `w` below `nbits` and
zeros above (log entry 12): every command is one 16-bit word, presented whole (20_memory R53 (b)). -/
def tableWord (nbits w : Nat) : Word := BitVec.ofNat 16 (w % 2 ^ nbits)

/-- The instruction the decoder reads from the word of a table row. -/
def decodeTableWord (nbits w : Nat) : Option Instr :=
  match decode (tableWord nbits w) with
  | .instr i => some i
  | .illegalOpcode => none
  | .badArg => none

end Sys2Proof
end

