-- ==== Sys2Proof/Machine/Port.lean ====
section
/-! DEFINITION. The command port (30_encoding R70): taking the next event, and what a word that is no command does. -/

namespace Sys2Proof.Machine

/-- The next event the host has presented, and the state with it taken; `none` when nothing is presented. -/
def takeEvent (s : State) : Option (PortEvent × State) :=
  match s.port with
  | [] => Option.none
  | e :: rest => some (e, { s with port := rest })

/-- Present one command word so that it is the next event taken (log entry 4). -/
def presentNext (w : Word) (s : State) : State := { s with port := .command w :: s.port }

/-- A word with a reserved opcode is refused with ILLEGAL_OPCODE (30_encoding R79, 60 R232). -/
def refuseOpcode (s : State) : Result := .next (raiseRefusal .illegalOpcode s)

/-- A word with a defined opcode and a nonzero reserved ARG bit is refused with BAD_ARG (30_encoding R79, 60 R232). -/
def refuseArg (s : State) : Result := .next (raiseRefusal .badArg s)

/-- A reset step (70 R260). -/
def takeReset (s : State) : Result := .next (resetBlock s)

end Sys2Proof.Machine
end

