-- ==== Sys2Proof/Machine/Step.lean ====
section
/-! DEFINITION. One step of the block: one whole command or one reset (00_scope R12, R13; 70 R260, R262). -/

namespace Sys2Proof.Machine

/-- One step: the next event of the port is taken; a command word is decoded and executed or refused (30_encoding R79),
a reset is applied (70 R260). With nothing presented there is no step (00_scope R12). -/
def step (s : State) : Host.Outcome State Fault Refusal :=
  match takeEvent s with
  | none => .fault .portEmpty
  | some (.reset, t) => takeReset t
  | some (.command w, t) =>
    match decode w with
    | .instr i => exec i t
    | .illegalOpcode => refuseOpcode t
    | .badArg => refuseArg t

/-- `s` with the command word of a table row presented, so that the very next step takes it (log entries 4, 12). -/
def State.withFetchWord (s : State) (nbits w : Nat) : State := presentNext (tableWord nbits w) s

end Sys2Proof.Machine
end

