-- ==== Sys2Proof/Machine/Macros.lean ====
section
/-! DEFINITION. The pseudo-commands (30_encoding R87) and how a host issues commands (45 R211). -/

namespace Sys2Proof.Machine

/-- `CHECKSUM8 s` (30_encoding R87). -/
def macroChecksum8 (d : List Byte) : List Instr := .sumClr :: d.map .sumByte ++ [.sumRd]

/-- `CRC16 s` (30_encoding R87). -/
def macroCrc16 (d : List Byte) : List Instr := .crcClr :: d.map .crcByte ++ [.crcRd]

/-- ENC_START n, the payload bytes, ENC_END: the frame is loaded and closed (42_framer_encode R137). -/
def fillSeq (n : Byte) (p : List Byte) : List Instr := .encStart n :: p.map .encData ++ [.encEnd]

/-- The command sequence of the law of the encoder (42_framer_encode R137). -/
def encodeSeq (m : Mode) (n : Byte) (p : List Byte) : List Instr :=
  fillSeq n p ++ List.replicate (Config.frameLen m) .encPop

/-- `ENCODE m, n, p` (30_encoding R87). -/
def macroEncode (m : Mode) (n : Byte) (p : List Byte) : List Instr := .setMode m :: encodeSeq m n p

/-- DEC_START and the bytes of a frame remainder (43_framer_decode R156). -/
def receiveSeq (f : List Byte) : List Instr := .decStart :: f.map .decData

/-- The command sequence of the law of the decoder (43_framer_decode R156). -/
def decodeSeq (f : List Byte) : List Instr := receiveSeq f ++ [.decEnd]

/-- BUF_RD 0 to BUF_RD 127: the payload of a decoded block (30_encoding R87). -/
def payloadSeq : List Instr := (List.range Config.payloadLen).map fun i => .bufRd (bufAddr i)

/-- The commands that read a decoded block out: DEC_BLK_RD, then the payload (30_encoding R87). -/
def readoutSeq : List Instr := .decBlkRd :: payloadSeq

/-- `DECODE m, f` up to its DEC_END (30_encoding R87). -/
def decodeHead (m : Mode) (f : List Byte) : List Instr := .setMode m :: decodeSeq f

/-- The rest of `DECODE m, f`, by the response of its DEC_END: the block is read out if it is 1 (30_encoding R87). -/
def decodeTail (rdata : Word) : List Instr := if rdata = 0x0001#16 then readoutSeq else []

/-- The words of a command sequence, as the host presents them (30_encoding R70). -/
def commandEvents (is : List Instr) : List PortEvent := is.map fun i => .command (encode i)

/-- One command issued by the host. -/
def issue (i : Instr) (s : State) : State :=
  match exec i s with
  | .next t => t
  | .fault _ => s
  | .refused _ => s

/-- A command sequence issued by the host, in order (70 R276). -/
def issueAll (is : List Instr) (s : State) : State := is.foldl (fun t i => issue i t) s

/-- The responses given between two states of one instance. -/
def answersSince (before after : State) : List Response := after.responses.drop before.responses.length

/-- RDATA of the last response given between two states of one instance. -/
def lastAnswer (before after : State) : Word := ((answersSince before after).getLastD ⟨0, true⟩).rdata

/-- `DECODE m, f` whole, as it expands from the state `s`: what follows DEC_END depends on its response (30_encoding
R87). -/
def macroDecode (m : Mode) (f : List Byte) (s : State) : List Instr :=
  decodeHead m f ++ decodeTail (lastAnswer s (issueAll (decodeHead m f) s))

/-- encode(mode, n, p) by commands (45 R211): the low bytes of the responses of the ENC_POP commands. -/
def codecEncode (n : Byte) (p : List Byte) (s : State) : State × List Byte :=
  (issueAll (encodeSeq s.mode n p) s,
   ((answersSince s (issueAll (encodeSeq s.mode n p) s)).drop (p.length + 2)).map fun r => r.rdata.lo)

/-- decode(mode, f) by commands (45 R211): RDATA of DEC_END, the last response. -/
def codecDecode (f : List Byte) (s : State) : State × Word :=
  (issueAll (decodeSeq f) s, lastAnswer s (issueAll (decodeSeq f) s))

/-- DEC_BLK_RD by command (45 R211): the block number. -/
def codecBlock (s : State) : State × Byte := (issue .decBlkRd s, (lastAnswer s (issue .decBlkRd s)).lo)

/-- BUF_RD 0 to BUF_RD 127 by commands (45 R211): the payload. -/
def codecPayload (s : State) : State × List Byte :=
  (issueAll payloadSeq s, (answersSince s (issueAll payloadSeq s)).map fun r => r.rdata.lo)

/-- The whole readout: the block number, then the payload (30_encoding R87). -/
def codecReadout (s : State) : State × Byte × List Byte :=
  ((codecPayload (codecBlock s).1).1, (codecBlock s).2, (codecPayload (codecBlock s).1).2)

/-- On an abort with a frame operation open the host issues ABORT (45 R211). -/
def codecClose (s : State) : State := if s.phase = .idle then s else issue .abort s

end Sys2Proof.Machine
end

