-- ==== Sys2Proof/Machine/HostData.lean ====
section
/-! DEFINITION. OUTSIDE THE BLOCK (45 R190): what the sender and receiver state machines have in common. -/

namespace Sys2Proof.Machine

/-- What a read of the transport returns: up to the bytes asked for, fewer or none on a timeout, or an I/O error
(45 R191, R210). -/
inductive ReadResult where
  | got (bs : List Byte)
  | ioError
  deriving DecidableEq, Repr

/-- What a write to the transport returns (45 R191): the count of all the bytes given, a smaller count (`part`), or an
I/O error. How many bytes went out before an I/O error the contract does not say: `sent` of them, any number. -/
inductive WriteResult where
  | all
  | part (count : Nat)
  | ioError (sent : Nat)
  deriving DecidableEq, Repr

/-- One turn of a state machine with its transport: what its read returned, and what the write it then makes returns.
The second is not looked at when it writes nothing. -/
structure Turn where
  read : ReadResult
  write : WriteResult
  deriving DecidableEq, Repr

/-- The write did not take every byte given: a partial write and an I/O error are transport errors (45 R191, R210). -/
def writeFailed (w : WriteResult) (bs : List Byte) : Bool :=
  match w with
  | .all => false
  | .part n => decide (n < bs.length)
  | .ioError _ => decide (bs ≠ [])

/-- The bytes of a write that the transport took. -/
def taken (w : WriteResult) (bs : List Byte) : List Byte :=
  match w with
  | .all => bs
  | .part n => bs.take n
  | .ioError n => bs.take n

/-- Why a transfer was aborted (45 R196 to R210). -/
inductive AbortReason where
  | noStartSignal
  | retryBudgetExhausted
  | eotNotAcknowledged
  | noSoh
  | connectionLost
  | peerAbort
  | transportError
  deriving DecidableEq, Repr

/-- The human-readable reason of an aborted transfer (45 R210): the strings of 45 R196, R197, R198, R201 and R206.
DESIGN CHOICE: the spec gives the last two reasons no string, and theirs name the error (log entry 29). -/
def AbortReason.text : AbortReason → String
  | .noStartSignal => "no start signal"
  | .retryBudgetExhausted => "retry budget exhausted"
  | .eotNotAcknowledged => "EOT not acknowledged"
  | .noSoh => "no SOH"
  | .connectionLost => "connection lost mid-block"
  | .peerAbort => "peer abort"
  | .transportError => "transport error"

/-- TransferOutcome (45 R194). No transition produces `timedOut` (91 N7). -/
inductive TransferOutcome where
  | completed
  | aborted (r : AbortReason)
  | timedOut
  deriving DecidableEq, Repr

/-- A read a state machine asks of the transport: at most `maxLen` bytes within `timeout` (45 R191). -/
structure ReadRequest where
  maxLen : Nat
  timeout : Nat
  deriving DecidableEq, Repr

/-- A read with the transport's timeout T_READ (45 R191, 91 N6). -/
def readUpTo (n : Nat) : ReadRequest := ⟨n, Config.tRead⟩

/-- What reading one control byte gave: a byte, nothing in time, or an I/O error. -/
inductive ControlRead where
  | byte (b : Byte)
  | timeout
  | ioError
  deriving DecidableEq, Repr

/-- The result of a one-byte read (45 R191: at most one byte comes back). -/
def controlRead : ReadResult → ControlRead
  | .got [] => .timeout
  | .got (b :: _) => .byte b
  | .ioError => .ioError

/-- The byte with which the receiver announces the mode (30_encoding R85). -/
def announcement : Mode → Byte
  | .checksum => Config.nak
  | .crc16 => Config.crcReq

/-- The mode an announcement byte selects (30_encoding R85). -/
def announcedMode (b : Byte) : Option Mode :=
  if b = Config.nak then some .checksum else if b = Config.crcReq then some .crc16 else none

/-- How the host finds its instance before the first frame of a transfer (70 R263): it resets the block itself, or it did
not and checks it, and then clears the refusal record or not. -/
inductive Boot where
  | reset
  | check (clearRecord : Bool)
  deriving DecidableEq, Repr

/-- STATUS_RD shows PHASE = IDLE (10_state R34): bits 1:0 of the answer. -/
def statusShowsIdle (status : Word) : Bool := status.extractLsb' 0 2 == 0#2

/-- STATUS_RD, and if PHASE is not IDLE an ABORT (70 R263 (3)) and the mode selection over again, since the SET_MODE of
step (1) was refused in that phase (44 R173; log entry 30). -/
def codecCheck (m : Mode) (s : State) : State :=
  if statusShowsIdle (lastAnswer s (issue .statusRd s)) then issue .statusRd s
  else issueAll [.abort, .setMode m] (issue .statusRd s)

/-- What the host does with its instance before the first frame of a transfer, in the order of 70 R263: SET_MODE, and if it
did not itself reset the block, the check of PHASE and, if it wants a clean refusal record, ERR_CLR. -/
def Boot.setUp (b : Boot) (m : Mode) (s : State) : State :=
  match b with
  | .reset => issue (.setMode m) (resetBlock s)
  | .check false => codecCheck m (issue (.setMode m) s)
  | .check true => issue .errClr (codecCheck m (issue (.setMode m) s))

/-- Trailing pad bytes are trimmed once, from the end of the whole stream (45 R207). -/
def stripPad (d : List Byte) : List Byte := (d.reverse.dropWhile fun b => b = Config.pad).reverse

end Sys2Proof.Machine
end

