-- ==== Sys2Proof/Machine/Receiver.lean ====
section
/-! DEFINITION. OUTSIDE THE BLOCK (45 R190): the receiver state machine (45 R200 to R208, R210), driving one instance
of the block. -/

namespace Sys2Proof.Machine

/-- Negotiating and AwaitSoh (coupled, 45 R201), ReceivingBlock while it reads a frame remainder or scans for the next
leading byte (45 R202, R206), and the end with its outcome (45 R200). -/
inductive ReceiverPhase where
  | negotiating
  | readingFrame
  | scanning
  | finished (o : TransferOutcome)
  deriving DecidableEq, Repr

/-- The receiver: its mode (a parameter of the caller, 45 R201), the attempts used of the current budget, the expected
block number, the assembled stream, what was delivered to the sink, and its block instance. -/
structure Receiver where
  mode : Mode
  phase : ReceiverPhase
  attempts : Nat
  expected : Byte
  assembled : List Byte
  sink : List Byte
  codec : State
  deriving DecidableEq, Repr

/-- The read the receiver waits for (45 R201, R202, R206). -/
def Receiver.wants (s : Receiver) : Option ReadRequest :=
  match s.phase with
  | .negotiating => some (readUpTo 1)
  | .readingFrame => some (readUpTo (Config.remLen s.mode))
  | .scanning => some (readUpTo 1)
  | .finished _ => none

/-- The end of the transfer; an open frame operation is abandoned (45 R211). -/
def Receiver.finish (o : TransferOutcome) (s : Receiver) : Receiver :=
  { s with phase := .finished o, codec := codecClose s.codec }

/-- The write of a reaction to `before`: a failed one is fatal, with no retry (45 R210; log entry 20). `expected` is not
advanced and nothing is delivered, since ACK was not sent (45 R205) and Done not reached (R192, R206). -/
def Receiver.settle (w : WriteResult) (before : Receiver) (x : Receiver × List Byte) : Receiver × List Byte :=
  (if writeFailed w x.2 then
      { x.1.finish (.aborted .transportError) with expected := before.expected, sink := before.sink }
    else x.1,
   taken w x.2)

/-- The receiver before its first announcement; its instance is set up first, by SET_MODE and the rest (45 R201, 70
R263). -/
def Receiver.initial (boot : Boot) (m : Mode) (codec : State) : Receiver :=
  ⟨m, .negotiating, 0, Config.blockFirst, [], [], boot.setUp m codec⟩

/-- The receiver after its first announcement, with the bytes written (45 R201). -/
def Receiver.start (boot : Boot) (m : Mode) (w : WriteResult) (codec : State) : Receiver × List Byte :=
  Receiver.settle w (Receiver.initial boot m codec) (Receiver.initial boot m codec, [announcement m])

/-- No SOH: the announcement again, or the end when 6 attempts are used (45 R201). -/
def Receiver.negotiationMiss (s : Receiver) : Receiver × List Byte :=
  if s.attempts + 1 < Config.startRetries then ({ s with attempts := s.attempts + 1 }, [announcement s.mode])
  else (s.finish (.aborted .noSoh), [])

/-- One of the block's 10 attempts is consumed; on exhaustion CAN (45 R206, 91 N9). -/
def Receiver.consume (s : Receiver) : Receiver × List Byte :=
  if s.attempts + 1 < Config.blockRetries then ({ s with phase := .scanning, attempts := s.attempts + 1 }, [])
  else (s.finish (.aborted .connectionLost), [Config.can])

/-- NAK, without advancing `expected` (45 R203, R204); the attempt is consumed after the NAK (log entry 18). -/
def Receiver.reject (s : Receiver) : Receiver × List Byte := (s.consume.1, Config.nak :: s.consume.2)

/-- The expected block: its 128 bytes appended, ACK, `expected` advanced, a fresh budget (45 R205, R194). -/
def Receiver.keep (q : List Byte) (s : Receiver) : Receiver × List Byte :=
  ({ s with phase := .scanning, attempts := 0, expected := s.expected + 1, assembled := s.assembled ++ q },
   [Config.ack])

/-- A decoded block, in the block's registers: DEC_BLK_RD, compared with `expected`, and only on a match BUF_RD 0 to
BUF_RD 127 (45 R211, R204, R205). -/
def Receiver.onBlock (s : Receiver) : Receiver × List Byte :=
  if (codecBlock s.codec).2 = s.expected then
    Receiver.keep (codecPayload (codecBlock s.codec).1).2 { s with codec := (codecPayload (codecBlock s.codec).1).1 }
  else Receiver.reject { s with codec := (codecBlock s.codec).1 }

/-- A frame remainder: decoded by the block; a failure or another block number is answered NAK (45 R202 to R205). -/
def Receiver.onFrame (f : List Byte) (s : Receiver) : Receiver × List Byte :=
  if (codecDecode f s.codec).2 = 0x0001#16 then Receiver.onBlock { s with codec := (codecDecode f s.codec).1 }
  else Receiver.reject { s with codec := (codecDecode f s.codec).1 }

/-- EOT while scanning: ACK, the stream stripped once and delivered (45 R206, R207). -/
def Receiver.complete (s : Receiver) : Receiver × List Byte :=
  ({ s.finish .completed with sink := stripPad s.assembled }, [Config.ack])

/-- A control byte while negotiating or scanning. CAN aborts (45 R208; log entry 17). -/
def Receiver.onByte (b : Byte) (s : Receiver) : Receiver × List Byte :=
  if b = Config.can then (s.finish (.aborted .peerAbort), [])
  else match s.phase with
    | .negotiating =>
      if b = Config.soh then ({ s with phase := .readingFrame, attempts := 0, expected := Config.blockFirst }, [])
      else s.negotiationMiss
    | .scanning =>
      if b = Config.soh then ({ s with phase := .readingFrame }, [])
      else if b = Config.eot then s.complete
      else s.consume
    | .readingFrame => (s, [])
    | .finished _ => (s, [])

/-- An empty read while negotiating or scanning (45 R201, R206). -/
def Receiver.onTimeout (s : Receiver) : Receiver × List Byte :=
  match s.phase with
  | .negotiating => s.negotiationMiss
  | .scanning => s.consume
  | .readingFrame => (s, [])
  | .finished _ => (s, [])

/-- What the receiver does with the result of its read: its next state, and the bytes it gives the transport to write. A short read inside a frame goes to the
decoder (45 R202); a byte 0x18 inside a frame is data (45 R208). Nothing happens after the end. -/
def Receiver.react (r : ReadResult) (s : Receiver) : Receiver × List Byte :=
  match s.phase, r with
  | .finished _, _ => (s, [])
  | _, .ioError => (s.finish (.aborted .transportError), [])
  | .readingFrame, .got f => s.onFrame f
  | _, .got bs =>
    match controlRead (.got bs) with
    | .byte b => s.onByte b
    | .timeout => s.onTimeout
    | .ioError => (s, [])

/-- One step of the receiver: the results of its read and of its write, and the bytes written. -/
def Receiver.step (r : ReadResult) (w : WriteResult) (s : Receiver) : Receiver × List Byte :=
  Receiver.settle w s (s.react r)

/-- The receiver over a sequence of turns: its last state and all the bytes written. -/
def Receiver.run : List Turn → Receiver → Receiver × List Byte
  | [], s => (s, [])
  | t :: ts, s =>
    ((Receiver.run ts (s.step t.read t.write).1).1,
     (s.step t.read t.write).2 ++ (Receiver.run ts (s.step t.read t.write).1).2)

end Sys2Proof.Machine
end

