-- ==== Sys2Proof/Machine/Sender.lean ====
section
/-! DEFINITION. OUTSIDE THE BLOCK (45 R190): the sender state machine (45 R195 to R199, R208, R210), driving one
instance of the block. One step takes the results of the read the machine waits for and of the write it then makes, and
answers the bytes written. -/

namespace Sys2Proof.Machine

/-- AwaitStart, SendingBlock(n), AwaitEot, and Done or Aborted with the outcome (45 R195). -/
inductive SenderPhase where
  | awaitStart
  | sendingBlock (n : Byte)
  | awaitEot
  | finished (o : TransferOutcome)
  deriving DecidableEq, Repr

/-- The sender: its phase, the attempts used of the current budget (45 R194), the source bytes of the block in flight,
the unread source bytes, its block instance, and how it sets that up (70 R263). -/
structure Sender where
  phase : SenderPhase
  attempts : Nat
  inFlight : List Byte
  unread : List Byte
  codec : State
  boot : Boot
  deriving DecidableEq, Repr

/-- The sender before its first read (45 R196). -/
def Sender.start (boot : Boot) (file : List Byte) (codec : State) : Sender := ⟨.awaitStart, 0, [], file, codec, boot⟩

/-- The read the sender waits for: one byte, in every phase but the last (45 R196 to R198). -/
def Sender.wants (s : Sender) : Option ReadRequest :=
  match s.phase with
  | .awaitStart => some (readUpTo 1)
  | .sendingBlock _ => some (readUpTo 1)
  | .awaitEot => some (readUpTo 1)
  | .finished _ => none

/-- The end of the transfer; an open frame operation is abandoned (45 R211). -/
def Sender.finish (o : TransferOutcome) (s : Sender) : Sender :=
  { s with phase := .finished o, codec := codecClose s.codec }

/-- Encode the block in flight with number `n` and write its frame; a resend is a new encode (42 R138, 45 R197). -/
def Sender.sendFrame (n : Byte) (s : Sender) : Sender × List Byte :=
  ({ s with phase := .sendingBlock n, codec := (codecEncode n s.inFlight s.codec).1 },
   (codecEncode n s.inFlight s.codec).2)

/-- Read up to 128 source bytes and send them as block `n`, or send EOT when the source is exhausted; the budget is
fresh (45 R194, R197, R198). -/
def Sender.advance (n : Byte) (s : Sender) : Sender × List Byte :=
  match s.unread with
  | [] => ({ s with phase := .awaitEot, attempts := 0, inFlight := [] }, [Config.eot])
  | b :: bs => Sender.sendFrame n { s with
      attempts := 0, inFlight := (b :: bs).take Config.payloadLen, unread := (b :: bs).drop Config.payloadLen }

/-- A start byte selects the mode: SET_MODE and the rest of the set-up, then block 1 (45 R196, 70 R263). -/
def Sender.begin (m : Mode) (s : Sender) : Sender × List Byte :=
  Sender.advance Config.blockFirst { s with codec := s.boot.setUp m s.codec }

/-- A read in AwaitStart that is no start byte consumes an attempt; no CAN is sent on exhaustion (45 R196). -/
def Sender.startMiss (s : Sender) : Sender × List Byte :=
  if s.attempts + 1 < Config.startRetries then ({ s with attempts := s.attempts + 1 }, [])
  else (s.finish (.aborted .noStartSignal), [])

/-- A read in SendingBlock(n) that is no ACK: the same packet again, or CAN when 10 attempts are used (45 R197). -/
def Sender.blockMiss (n : Byte) (s : Sender) : Sender × List Byte :=
  if s.attempts + 1 < Config.blockRetries then Sender.sendFrame n { s with attempts := s.attempts + 1 }
  else (s.finish (.aborted .retryBudgetExhausted), [Config.can])

/-- A read in AwaitEot that is no ACK: EOT again, or the end without CAN when 10 attempts are used (45 R198). -/
def Sender.eotMiss (s : Sender) : Sender × List Byte :=
  if s.attempts + 1 < Config.blockRetries then ({ s with attempts := s.attempts + 1 }, [Config.eot])
  else (s.finish (.aborted .eotNotAcknowledged), [])

/-- A control byte in each phase. CAN aborts wherever a control byte is awaited (45 R208, 90_conflicts C4; log
entry 17). -/
def Sender.onByte (b : Byte) (s : Sender) : Sender × List Byte :=
  if b = Config.can then (s.finish (.aborted .peerAbort), [])
  else match s.phase with
    | .awaitStart =>
      match announcedMode b with
      | some m => s.begin m
      | none => s.startMiss
    | .sendingBlock n => if b = Config.ack then s.advance (n + 1) else s.blockMiss n
    | .awaitEot => if b = Config.ack then (s.finish .completed, []) else s.eotMiss
    | .finished _ => (s, [])

/-- An empty read in each phase, treated as a dropped response (45 R191). -/
def Sender.onTimeout (s : Sender) : Sender × List Byte :=
  match s.phase with
  | .awaitStart => s.startMiss
  | .sendingBlock n => s.blockMiss n
  | .awaitEot => s.eotMiss
  | .finished _ => (s, [])

/-- What the sender does with the result of its read: its next state, and the bytes it gives the transport to write.
Nothing happens after the end. -/
def Sender.react (r : ReadResult) (s : Sender) : Sender × List Byte :=
  match s.phase with
  | .finished _ => (s, [])
  | _ =>
    match controlRead r with
    | .byte b => s.onByte b
    | .timeout => s.onTimeout
    | .ioError => (s.finish (.aborted .transportError), [])

/-- The write of a reaction: a failed one is fatal, with no retry (45 R210; log entry 20). -/
def Sender.settle (w : WriteResult) (x : Sender × List Byte) : Sender × List Byte :=
  (if writeFailed w x.2 then x.1.finish (.aborted .transportError) else x.1, taken w x.2)

/-- One step of the sender: the results of its read and of its write, and the bytes written. -/
def Sender.step (r : ReadResult) (w : WriteResult) (s : Sender) : Sender × List Byte := Sender.settle w (s.react r)

/-- The sender over a sequence of turns: its last state and all the bytes written. -/
def Sender.run : List Turn → Sender → Sender × List Byte
  | [], s => (s, [])
  | t :: ts, s =>
    ((Sender.run ts (s.step t.read t.write).1).1,
     (s.step t.read t.write).2 ++ (Sender.run ts (s.step t.read t.write).1).2)

end Sys2Proof.Machine
end

