-- ==== Sys2Proof/Machine/Link.lean ====
section
/-! DEFINITION. OUTSIDE THE BLOCK: a sender and a receiver, each with its own instance of the block (60 R244), joined by
a lossless transport (45 R212), or by one that drops response bytes (R213). -/

namespace Sys2Proof.Machine

/-- The two state machines and the bytes under way in each direction, oldest first. -/
structure Link where
  sender : Sender
  receiver : Receiver
  toReceiver : List Byte
  toSender : List Byte
  deriving DecidableEq, Repr

/-- The link as the receiver has announced its mode; each side has an instance of the block, which it sets up by `boot`
(45 R201, 70 R263). -/
def Link.start (boot : Boot) (m : Mode) (file : List Byte) (sendCodec recvCodec : State) : Link :=
  ⟨Sender.start boot file sendCodec, (Receiver.start boot m .all recvCodec).1, [],
   (Receiver.start boot m .all recvCodec).2⟩

/-- The sender's read returns `r`, and every byte it writes goes under way. -/
def Link.senderTurn (r : ReadResult) (l : Link) : Link :=
  { l with sender := (l.sender.step r .all).1, toReceiver := l.toReceiver ++ (l.sender.step r .all).2 }

/-- The receiver reads as many bytes as it wants of what is under way to it, and reacts by `recv`. -/
def Link.receiverTurn (recv : ReadResult → WriteResult → Receiver → Receiver × List Byte) (l : Link) : Link :=
  match l.receiver.wants with
  | none => l
  | some q =>
    { l with
      receiver := (recv (.got (l.toReceiver.take q.maxLen)) .all l.receiver).1
      toReceiver := l.toReceiver.drop q.maxLen
      toSender := (recv (.got (l.toReceiver.take q.maxLen)) .all l.receiver).2 }

/-- One step of a link whose receiver reacts by `recv`: the sender reads what is under way to it, else the receiver what
is under way to it; nothing is lost, and no read times out (45 R212; log entry 25). -/
def Link.stepWith (recv : ReadResult → WriteResult → Receiver → Receiver × List Byte) (l : Link) : Link :=
  match l.toSender with
  | b :: bs => Link.senderTurn (.got [b]) { l with toSender := bs }
  | [] => if l.toReceiver = [] then l else l.receiverTurn recv

/-- One step of the lossless link (45 R212). -/
def Link.step (l : Link) : Link := l.stepWith Receiver.step

/-- `n` steps of the link. -/
def Link.run : Nat → Link → Link
  | 0, l => l
  | n + 1, l => Link.run n l.step

/-- The transport drops the next response byte: the sender's read times out instead (45 R213). -/
def Link.dropResponse (l : Link) : Link :=
  match l.toSender with
  | [] => l
  | _ :: bs => Link.senderTurn (.got []) { l with toSender := bs }

/-- `n` steps of a link whose transport drops every `k`-th response byte, `seen` of them having come so far, and whose
receiver reacts by `recv` (45 R213; log entry 26). DESIGN CHOICE: run from `Link.start` with `seen` = 0 this counts the
receiver's announcement byte as the first response byte, which the spec does not say; run from the state after that byte
has been read, `(Link.start boot m file a b).step`, it does not count it (log entry 28). -/
def Link.runDropping (recv : ReadResult → WriteResult → Receiver → Receiver × List Byte) (k : Nat) :
    Nat → Nat → Link → Link
  | 0, _, l => l
  | n + 1, seen, l =>
    if l.toSender = [] then Link.runDropping recv k n seen (l.stepWith recv)
    else if (seen + 1) % k = 0 then Link.runDropping recv k n (seen + 1) l.dropResponse
    else Link.runDropping recv k n (seen + 1) (l.stepWith recv)

/-- The frame remainder is a duplicate of the block just accepted. -/
def Receiver.isDuplicate (f : List Byte) (s : Receiver) : Bool :=
  decide (s.assembled ≠ []) && decide ((codecDecode f s.codec).2 = 0x0001#16) &&
    decide ((codecBlock (codecDecode f s.codec).1).2 = s.expected - 1)

/-- DESIGN CHOICE, no rule's receiver: one that answers a duplicate of the block just accepted with ACK, appends nothing
and uses no attempt, and does everything else as `Receiver.step`. 45 R204 has NAK there; with NAK the outcome of R213
cannot come about (R214 (a)), with ACK it does (log entry 26). -/
def Receiver.stepAckingDuplicates (r : ReadResult) (w : WriteResult) (s : Receiver) : Receiver × List Byte :=
  match s.phase, r with
  | .readingFrame, .got f =>
    if s.isDuplicate f then
      Receiver.settle w s
        ({ s with phase := .scanning, codec := (codecBlock (codecDecode f s.codec).1).1 }, [Config.ack])
    else s.step (.got f) w
  | .readingFrame, .ioError => s.step .ioError w
  | .negotiating, _ => s.step r w
  | .scanning, _ => s.step r w
  | .finished _, _ => s.step r w

end Sys2Proof.Machine
end

