-- ==== Sys2Proof/Safety.lean ====
section
/-! DEFINITION. The terms claims use: the acceptance matrix (60 R234), the state invariants (10_state R40), and what it
means for a response to be an acceptance or a refusal. -/

namespace Sys2Proof.Machine

/-- The phase a command needs; `none` for a command accepted in every phase (30_encoding R72, 60 R234). -/
def phaseNeeded : Instr → Option Phase
  | .nop => Option.none
  | .abort => Option.none
  | .errClr => Option.none
  | .setMode _ => some .idle
  | .statusRd => Option.none
  | .bufRd _ => some .idle
  | .sumClr => some .idle
  | .sumByte _ => some .idle
  | .sumRd => Option.none
  | .crcClr => some .idle
  | .crcByte _ => some .idle
  | .crcRd => Option.none
  | .encStart _ => some .idle
  | .encData _ => some .encFill
  | .encEnd => some .encFill
  | .encPop => some .encOut
  | .decStart => some .idle
  | .decData _ => some .decIn
  | .decEnd => some .decIn
  | .decBlkRd => Option.none

/-- The command appends a payload byte and so needs room in the buffer (42 R133). -/
def needsRoom : Instr → Bool
  | .encData _ => true
  | .nop | .abort | .errClr | .setMode _ | .statusRd | .bufRd _ | .sumClr | .sumByte _ | .sumRd | .crcClr
  | .crcByte _ | .crcRd | .encStart _ | .encEnd | .encPop | .decStart | .decData _ | .decEnd | .decBlkRd => false

/-- Why a well-formed command is not accepted: the phase first, then the room (60 R233, R234); `none` if it is. -/
def refusalCause (i : Instr) (s : State) : Option Cause :=
  if ∃ p ∈ phaseNeeded i, s.phase ≠ p then some .wrongPhase
  else if needsRoom i = true ∧ ¬ s.cnt.toNat < Config.payloadLen then some .bufFull
  else Option.none

/-- The command is accepted in the state (60 R234). -/
abbrev accepts (i : Instr) (s : State) : Prop := refusalCause i s = Option.none

/-- PBUF[0 .. k-1], in payload order (10_state R33, R40). -/
def State.payload (s : State) (k : Nat) : List Byte := (List.range k).map fun i => s.readBuf (bufAddr i)

/-- The first `k` bytes of PBUF have each been written since the last reset, so none is a byte of PBUF_RESET (93 U1). -/
def State.filled (s : State) (k : Nat) : Prop := ∀ i, i < k → Memory.get? s.pbuf i ≠ Option.none

/-- The number of payload bytes the current frame operation has put into PBUF (10_state R40 (g), (h), (i)). -/
def State.loaded (s : State) : Nat :=
  match s.phase with
  | .idle => 0
  | .encFill => s.cnt.toNat
  | .encOut => Config.payloadLen
  | .decIn => min s.cnt.toNat 130 - 2

/-- 10_state R40 (a), (b), (c): CNT stays within the frame operation. -/
def State.cntInRange (s : State) : Prop :=
  match s.phase with
  | .idle => True
  | .encFill => s.cnt.toNat ≤ Config.payloadLen
  | .encOut => s.cnt.toNat + 1 ≤ Config.frameLen s.mode
  | .decIn => s.cnt.toNat ≤ Config.remLen s.mode

/-- 10_state R40 (d). -/
def State.ovfExplained (s : State) : Prop :=
  s.ovf = true → (s.phase = .decIn ∧ s.cnt.toNat = Config.remLen s.mode) ∨ s.phase = .idle

/-- 10_state R40 (e), R32: ERRCODE = 0 exactly when ERR = 0. -/
def State.errConsistent (s : State) : Prop := s.errcode = Option.none ↔ s.err = false

/-- 10_state R40 (g), (h) in ENC_OUT, (i): inside a frame operation the accumulators hold the CRC and the checksum of
the payload bytes loaded so far. -/
def State.accumulatorsTrack (s : State) : Prop :=
  s.phase ≠ .idle → s.crc = crc16 (s.payload s.loaded) ∧ s.sum = checksum8 (s.payload s.loaded)

/-- The invariant of the block: 10_state R40, the canonical form of PBUF, and that the bytes loaded by the current
frame operation have all been written. (R40 (f) holds by the types of RES and ERRCODE.) -/
structure State.Inv (s : State) : Prop where
  cnt : s.cntInRange
  ovf : s.ovfExplained
  err : s.errConsistent
  acc : s.accumulatorsTrack
  mem : Memory.wf s.pbuf = true
  fill : s.filled s.loaded

/-- `n` steps of the block, by the host's interface. -/
def runSteps (n : Nat) (s : State) : Result := Host.Core.run Sys2Proof.core n s

/-- The command is executed and answered RERR = 0 (30_encoding R78). -/
def answeredOk (i : Instr) (s : State) : Prop :=
  ∃ t v, exec i s = .next t ∧ t.responses = s.responses ++ [⟨v, false⟩]

/-- A word presented at the port is refused with a cause, in every state and phase (60 R231, R233). -/
def refusedAtPort (w : Word) (c : Cause) : Prop :=
  ∀ (s : State) (rest : List PortEvent), s.port = .command w :: rest →
    step s = .next (raiseRefusal c { s with port := rest })

/-- The twelve registers of 10_state R20, by name. -/
inductive Reg where
  | crc | sum | mode | blk | cmp | trl | cnt | phase | res | ovf | err | errcode
  deriving DecidableEq, Repr

/-- The register holds the same value in both states. -/
def sameReg (r : Reg) (s t : State) : Prop :=
  match r with
  | .crc => t.crc = s.crc
  | .sum => t.sum = s.sum
  | .mode => t.mode = s.mode
  | .blk => t.blk = s.blk
  | .cmp => t.cmp = s.cmp
  | .trl => t.trl = s.trl
  | .cnt => t.cnt = s.cnt
  | .phase => t.phase = s.phase
  | .res => t.res = s.res
  | .ovf => t.ovf = s.ovf
  | .err => t.err = s.err
  | .errcode => t.errcode = s.errcode

/-- The registers a command writes when it is accepted: the column "written by command" of 10_state R20. -/
def writtenBy : Instr → List Reg
  | .nop => []
  | .abort => [.phase, .res, .ovf]
  | .errClr => [.err, .errcode]
  | .setMode _ => [.mode]
  | .statusRd => []
  | .bufRd _ => []
  | .sumClr => [.sum]
  | .sumByte _ => [.sum]
  | .sumRd => []
  | .crcClr => [.crc]
  | .crcByte _ => [.crc]
  | .crcRd => []
  | .encStart _ => [.crc, .sum, .blk, .cnt, .phase, .res, .ovf]
  | .encData _ => [.crc, .sum, .cnt]
  | .encEnd => [.crc, .sum, .cnt, .phase]
  | .encPop => [.cnt, .phase]
  | .decStart => [.crc, .sum, .trl, .cnt, .phase, .res, .ovf]
  | .decData _ => [.crc, .sum, .blk, .cmp, .trl, .cnt, .ovf]
  | .decEnd => [.phase, .res]
  | .decBlkRd => []

/-- The commands that write PBUF (20_memory R51). -/
def storesToBuffer : Instr → Bool
  | .encData _ | .encEnd | .decData _ => true
  | .nop | .abort | .errClr | .setMode _ | .statusRd | .bufRd _ | .sumClr | .sumByte _ | .sumRd | .crcClr
  | .crcByte _ | .crcRd | .encStart _ | .encPop | .decStart | .decEnd | .decBlkRd => false

/-- The commands that may be interleaved with the encoder's sequence without changing the frame (42 R137). -/
def harmless : Instr → Bool
  | .nop | .errClr | .statusRd | .sumRd | .crcRd | .decBlkRd => true
  | .abort | .setMode _ | .bufRd _ | .sumClr | .sumByte _ | .crcClr | .crcByte _ | .encStart _ | .encData _
  | .encEnd | .encPop | .decStart | .decData _ | .decEnd => false

end Sys2Proof.Machine
end

