-- ==== Sys2Proof/Certificates/Slice0/Obligations.lean ====
section
/-! DEFINITION. The statements for the provers, from the numbered rules of spec/. -/

open Sys2Proof Sys2Proof.Machine

/-! ## Encoding and the command port -/

/-- Decoding the encoded word of any command, at every operand, gives the command back, and a word that decodes to a
command is that command's encoded word: no other word encodes it (30_encoding R72 to R77). -/
def Obligations.DecodeAndEncodeAgree : Prop :=
  (∀ i : Instr, decode (encode i) = .instr i) ∧
  (∀ (w : Word) (i : Instr), decode w = .instr i → encode i = w)

/-- 30_encoding R79 (with R73, R75, R76): every word is a command exactly when it is well formed, has an illegal opcode
exactly in the reserved ranges whatever its ARG, and a bad argument exactly when OP is defined and a reserved ARG bit is
set. -/
def Obligations.EveryWordIsACommandOrANamedRefusal : Prop :=
  ∀ op arg : Byte,
    let reserved : Prop := (0x06 ≤ op.toNat ∧ op.toNat ≤ 0x0F) ∨ (0x13 ≤ op.toNat ∧ op.toNat ≤ 0x1F) ∨
      (0x23 ≤ op.toNat ∧ op.toNat ≤ 0x2F) ∨ (0x34 ≤ op.toNat ∧ op.toNat ≤ 0x3F) ∨ 0x44 ≤ op.toNat
    let formatB : Prop := op = 0x11#8 ∨ op = 0x21#8 ∨ op = 0x30#8 ∨ op = 0x31#8 ∨ op = 0x41#8
    let reservedBitSet : Prop :=
      if op = 0x03#8 then 2 ≤ arg.toNat else if op = 0x05#8 then 128 ≤ arg.toNat else ¬ formatB ∧ arg ≠ 0#8
    (decode (op ++ arg) = .illegalOpcode ↔ reserved) ∧
    (decode (op ++ arg) = .badArg ↔ ¬ reserved ∧ reservedBitSet) ∧
    ((∃ i, decode (op ++ arg) = .instr i) ↔ ¬ reserved ∧ ¬ reservedBitSet) ∧
    ((∃ i, decode (op ++ arg) = .instr i) ↔ wellFormedWord (op ++ arg) = true)

/-- 30_encoding R79: exactly 1423 of the 65536 words encode a command, and R72: a word is a command exactly when it
matches one row of the table. -/
def Obligations.ExactlyThe1423LegalWordsDecode : Prop :=
  (∃ ws : List Word, ws.Nodup ∧ ws.length = 1423 ∧ ∀ w, w ∈ ws ↔ ∃ i, decode w = .instr i) ∧
  (∀ w : Word, (∃ i, decode w = .instr i) ↔ ∃ r ∈ opcodeTable, r.matches w = true) ∧
  (∀ (w : Word) (r r' : OpcodeRow), r ∈ opcodeTable → r' ∈ opcodeTable → r.matches w = true → r'.matches w = true → r = r')

/-- Words written out from 30_encoding R72 to R76 and the sample words of 95_test_vectors section 2.1. -/
def Obligations.SampleWordsDecode : Prop :=
  decode 0x0000#16 = .instr .nop ∧ decode 0x00FF#16 = .badArg ∧ decode 0x0301#16 = .instr (.setMode .crc16) ∧
  decode 0x0302#16 = .badArg ∧ decode 0x057F#16 = .instr (.bufRd 127#7) ∧ decode 0x0580#16 = .badArg ∧
  decode 0x1120#16 = .instr (.sumByte 0x20#8) ∧ decode 0x2131#16 = .instr (.crcByte 0x31#8) ∧
  decode 0x3001#16 = .instr (.encStart 1#8) ∧ decode 0x41FD#16 = .instr (.decData 0xFD#8) ∧
  decode 0x1300#16 = .illegalOpcode ∧ decode 0xFFFF#16 = .illegalOpcode

/-- A step runs the decoded instruction: with a command word next at the port that decodes to `i`, the step is `exec i`
on the state with the word taken (00_scope R12, R13; 30_encoding R70). That the port is a list is log entry 1. -/
def Obligations.StepRunsTheDecodedCommand : Prop :=
  (∀ (s : State) (w : Word) (rest : List PortEvent) (i : Instr), s.port = .command w :: rest → decode w = .instr i →
    step s = exec i { s with port := rest }) ∧
  (∀ (s : State) (i : Instr) (rest : List PortEvent), s.port = .command (encode i) :: rest →
    step s = exec i { s with port := rest })

/-- A word that is no command is refused in every state and phase, before the phase is looked at (60 R233): a reserved
opcode with cause 1, a reserved ARG bit with cause 2 (60 R232), by the refusal of 60 R231. -/
def Obligations.StepRefusesAWordThatIsNoCommand : Prop :=
  (∀ (s : State) (w : Word) (rest : List PortEvent), s.port = .command w :: rest → decode w = .illegalOpcode →
    step s = .next { s with
      port := rest, err := true, errcode := if s.err then s.errcode else some .illegalOpcode,
      responses := s.responses ++ [⟨0x0001#16, true⟩] }) ∧
  (∀ (s : State) (w : Word) (rest : List PortEvent), s.port = .command w :: rest → decode w = .badArg →
    step s = .next { s with
      port := rest, err := true, errcode := if s.err then s.errcode else some .badArg,
      responses := s.responses ++ [⟨0x0002#16, true⟩] })

/-- A reset step gives every register the value of 10_state R38 whatever the state before it, and no response (70 R260,
R261). That the pending events and the past responses stay is the model's choice (log entry 13), and so is the way
PBUF_RESET is held: nothing listed, a new free value (log entries 5 to 7). -/
def Obligations.StepAppliesReset : Prop :=
  ∀ (s : State) (rest : List PortEvent), s.port = .reset :: rest →
    step s = .next {
      crc := 0x0000#16, sum := 0x00#8, mode := .checksum, blk := 0x00#8, cmp := 0x00#8, trl := 0x0000#16, cnt := 0x00#8,
      phase := .idle, res := .none, ovf := false, err := false, errcode := none, pbuf := [],
      port := rest, responses := s.responses, resets := s.resets + 1 }

/-- The state after reset (10_state R38): the values the spec gives, and STATUS = 0x0000. -/
def Obligations.ResetLeavesTheListedValues : Prop :=
  State.reset.crc = 0x0000#16 ∧ State.reset.sum = 0x00#8 ∧ State.reset.mode = .checksum ∧ State.reset.blk = 0x00#8 ∧
  State.reset.cmp = 0x00#8 ∧ State.reset.trl = 0x0000#16 ∧ State.reset.cnt = 0x00#8 ∧ State.reset.phase = .idle ∧
  State.reset.res = .none ∧ State.reset.ovf = false ∧ State.reset.err = false ∧ State.reset.errcode = none ∧
  statusWord State.reset = 0x0000#16

/-- With nothing presented the model stops: the block has no step of its own (00_scope R12; log entry 3). -/
def Obligations.StepStopsWhenNothingIsPresented : Prop :=
  ∀ s : State, s.port = [] ↔ step s = .fault .portEmpty

/-- Every event presented is answered by a next state, a command word with exactly one response (30_encoding R78,
70 R276), whatever the word and whatever the state. -/
def Obligations.EveryCommandWordGetsOneResponse : Prop :=
  ∀ (s : State) (w : Word) (rest : List PortEvent), s.port = .command w :: rest →
    ∃ t r, step s = .next t ∧ t.port = rest ∧ t.responses = s.responses ++ [r] ∧ t.resets = s.resets

/-! ## Control and status commands -/

/-- NOP (44 R170). -/
def Obligations.NopChangesNothing : Prop :=
  (∀ s : State, exec .nop s = .next { s with responses := s.responses ++ [⟨0x0000#16, false⟩] }) ∧
  (∀ arg : Byte, decode (0x00#8 ++ arg) = if arg = 0x00#8 then .instr .nop else .badArg) ∧
  (∀ arg : Byte, arg ≠ 0x00#8 → refusedAtPort (0x00#8 ++ arg) .badArg)

/-- ABORT (44 R171). -/
def Obligations.AbortReturnsToIdle : Prop :=
  (∀ s : State, exec .abort s = .next { s with
    phase := .idle, res := .none, ovf := false, responses := s.responses ++ [⟨0x0000#16, false⟩] }) ∧
  (∀ arg : Byte, decode (0x01#8 ++ arg) = if arg = 0x00#8 then .instr .abort else .badArg) ∧
  (∀ arg : Byte, arg ≠ 0x00#8 → refusedAtPort (0x01#8 ++ arg) .badArg)

/-- ERR_CLR (44 R172). -/
def Obligations.ErrClrClearsTheRecord : Prop :=
  (∀ s : State, exec .errClr s = .next { s with
    err := false, errcode := none, responses := s.responses ++ [⟨0x0000#16, false⟩] }) ∧
  (∀ arg : Byte, decode (0x02#8 ++ arg) = if arg = 0x00#8 then .instr .errClr else .badArg) ∧
  (∀ arg : Byte, arg ≠ 0x00#8 → refusedAtPort (0x02#8 ++ arg) .badArg)

/-- SET_MODE m (44 R173): accepted in IDLE; WRONG_PHASE elsewhere; BAD_ARG for the words 0x0302 to 0x03FF. -/
def Obligations.SetModeWritesMode : Prop :=
  (∀ (m : Mode) (s : State), s.phase = .idle →
    exec (.setMode m) s = .next { s with mode := m, responses := s.responses ++ [⟨0x0000#16, false⟩] }) ∧
  (∀ (m : Mode) (s : State), s.phase ≠ .idle → exec (.setMode m) s = .next (raiseRefusal .wrongPhase s)) ∧
  (∀ arg : Byte, decode (0x03#8 ++ arg) =
    if arg = 0x00#8 then .instr (.setMode .checksum) else if arg = 0x01#8 then .instr (.setMode .crc16) else .badArg) ∧
  (∀ arg : Byte, 2 ≤ arg.toNat → refusedAtPort (0x03#8 ++ arg) .badArg)

/-- STATUS_RD (44 R174) and the status word, field by field (10_state R34, codes of R23, R28, R29 and 60 R232). -/
def Obligations.StatusRdAssemblesStatus : Prop :=
  (∀ s : State, ∃ v : Word, exec .statusRd s = .next { s with responses := s.responses ++ [⟨v, false⟩] } ∧
    v.extractLsb' 0 2 = (match s.phase with | .idle => 0#2 | .encFill => 1#2 | .encOut => 2#2 | .decIn => 3#2) ∧
    v.extractLsb' 2 1 = (match s.mode with | .checksum => 0#1 | .crc16 => 1#1) ∧
    v.extractLsb' 3 1 = (if s.err then 1#1 else 0#1) ∧
    v.extractLsb' 4 3 = (match s.errcode with
      | none => 0#3 | some .illegalOpcode => 1#3 | some .badArg => 2#3 | some .wrongPhase => 3#3 | some .bufFull => 4#3) ∧
    v.extractLsb' 7 1 = (if s.ovf then 1#1 else 0#1) ∧
    v.extractLsb' 8 3 = (match s.res with
      | .none => 0#3 | .ok => 1#3 | .badPair => 2#3 | .trlMismatch => 3#3 | .badLen => 4#3) ∧
    v.extractLsb' 11 5 = 0#5) ∧
  (∀ arg : Byte, decode (0x04#8 ++ arg) = if arg = 0x00#8 then .instr .statusRd else .badArg) ∧
  (∀ arg : Byte, arg ≠ 0x00#8 → refusedAtPort (0x04#8 ++ arg) .badArg)

/-- BUF_RD a (44 R175): PBUF[a] in IDLE; WRONG_PHASE elsewhere; BAD_ARG when ARG[7] = 1. The byte is the one last
written at the address since reset; where none was, any byte (PBUF_RESET). -/
def Obligations.BufRdReturnsTheBufferByte : Prop :=
  (∀ (a : Addr) (s : State), s.phase = .idle →
    exec (.bufRd a) s = .next { s with responses := s.responses ++ [⟨(s.readBuf a).setWidth 16, false⟩] }) ∧
  (∀ (a : Addr) (s : State) (b : Byte), Memory.get? s.pbuf a.toNat = some b → s.readBuf a = b) ∧
  (∀ (a : Addr) (s : State), s.phase ≠ .idle → exec (.bufRd a) s = .next (raiseRefusal .wrongPhase s)) ∧
  (∀ arg : Byte, decode (0x05#8 ++ arg) =
    if arg.toNat < 128 then .instr (.bufRd (BitVec.ofNat 7 arg.toNat)) else .badArg) ∧
  (∀ arg : Byte, 128 ≤ arg.toNat → refusedAtPort (0x05#8 ++ arg) .badArg)

/-! ## The two standalone units -/

/-- SUM_CLR (40 R101). -/
def Obligations.SumClrClearsSum : Prop :=
  (∀ s : State, s.phase = .idle →
    exec .sumClr s = .next { s with sum := 0x00#8, responses := s.responses ++ [⟨0x0000#16, false⟩] }) ∧
  (∀ s : State, s.phase ≠ .idle → exec .sumClr s = .next (raiseRefusal .wrongPhase s)) ∧
  (∀ arg : Byte, decode (0x10#8 ++ arg) = if arg = 0x00#8 then .instr .sumClr else .badArg) ∧
  (∀ arg : Byte, arg ≠ 0x00#8 → refusedAtPort (0x10#8 ++ arg) .badArg)

/-- SUM_BYTE b (40 R102). -/
def Obligations.SumByteAddsModulo256 : Prop :=
  (∀ (b : Byte) (s : State), s.phase = .idle →
    exec (.sumByte b) s = .next { s with
      sum := BitVec.ofNat 8 ((s.sum.toNat + b.toNat) % 256), responses := s.responses ++ [⟨0x0000#16, false⟩] }) ∧
  (∀ (b : Byte) (s : State), s.phase ≠ .idle → exec (.sumByte b) s = .next (raiseRefusal .wrongPhase s)) ∧
  (∀ b : Byte, decode (0x11#8 ++ b) = .instr (.sumByte b))

/-- SUM_RD (40 R103). -/
def Obligations.SumRdReturnsSum : Prop :=
  (∀ s : State, exec .sumRd s = .next { s with responses := s.responses ++ [⟨0x00#8 ++ s.sum, false⟩] }) ∧
  (∀ arg : Byte, decode (0x12#8 ++ arg) = if arg = 0x00#8 then .instr .sumRd else .badArg) ∧
  (∀ arg : Byte, arg ≠ 0x00#8 → refusedAtPort (0x12#8 ++ arg) .badArg)

/-- CRC_CLR (41 R113). -/
def Obligations.CrcClrLoadsZero : Prop :=
  (∀ s : State, s.phase = .idle →
    exec .crcClr s = .next { s with crc := 0x0000#16, responses := s.responses ++ [⟨0x0000#16, false⟩] }) ∧
  (∀ s : State, s.phase ≠ .idle → exec .crcClr s = .next (raiseRefusal .wrongPhase s)) ∧
  (∀ arg : Byte, decode (0x20#8 ++ arg) = if arg = 0x00#8 then .instr .crcClr else .badArg) ∧
  (∀ arg : Byte, arg ≠ 0x00#8 → refusedAtPort (0x20#8 ++ arg) .badArg)

/-- CRC_BYTE b (41 R114), with the corner case crc_update(c, c[15:8]) = (c[7:0] << 8). -/
def Obligations.CrcByteUpdatesCrc : Prop :=
  (∀ (b : Byte) (s : State), s.phase = .idle →
    exec (.crcByte b) s = .next { s with
      crc := crcUpdate s.crc b, responses := s.responses ++ [⟨0x0000#16, false⟩] }) ∧
  (∀ c : Word, crcUpdate c (c.extractLsb' 8 8) = c.extractLsb' 0 8 ++ 0x00#8) ∧
  crcUpdate 0x0000#16 0x00#8 = 0x0000#16 ∧ crcUpdate 0x1234#16 0x00#8 = 0x0673#16 ∧
  crcUpdate 0x0000#16 0x31#8 = 0x2672#16 ∧
  (∀ (b : Byte) (s : State), s.phase ≠ .idle → exec (.crcByte b) s = .next (raiseRefusal .wrongPhase s)) ∧
  (∀ b : Byte, decode (0x21#8 ++ b) = .instr (.crcByte b))

/-- CRC_RD (41 R115). -/
def Obligations.CrcRdReturnsCrc : Prop :=
  (∀ s : State, exec .crcRd s = .next { s with responses := s.responses ++ [⟨s.crc, false⟩] }) ∧
  (∀ arg : Byte, decode (0x22#8 ++ arg) = if arg = 0x00#8 then .instr .crcRd else .badArg) ∧
  (∀ arg : Byte, arg ≠ 0x00#8 → refusedAtPort (0x22#8 ++ arg) .badArg)

/-! ## The encoder -/

/-- ENC_START n (42 R132). -/
def Obligations.EncStartOpensAnEncode : Prop :=
  (∀ (n : Byte) (s : State), s.phase = .idle →
    exec (.encStart n) s = .next { s with
      blk := n, cnt := 0x00#8, crc := 0x0000#16, sum := 0x00#8, res := .none, ovf := false, phase := .encFill,
      responses := s.responses ++ [⟨0x0000#16, false⟩] }) ∧
  (∀ (n : Byte) (s : State), s.phase ≠ .idle → exec (.encStart n) s = .next (raiseRefusal .wrongPhase s)) ∧
  (∀ n : Byte, decode (0x30#8 ++ n) = .instr (.encStart n))

/-- ENC_DATA b (42 R133): stored at CNT, both accumulators stepped, CNT advanced; BUF_FULL at CNT = 128. -/
def Obligations.EncDataAppendsAPayloadByte : Prop :=
  (∀ (b : Byte) (s : State), s.phase = .encFill → s.cnt.toNat < 128 → ∃ mem : Memory,
    exec (.encData b) s = .next { s with
      pbuf := mem, crc := crcUpdate s.crc b, sum := BitVec.ofNat 8 ((s.sum.toNat + b.toNat) % 256),
      cnt := BitVec.ofNat 8 (s.cnt.toNat + 1), responses := s.responses ++ [⟨0x0000#16, false⟩] } ∧
    ∀ a : Nat, Memory.get? mem a = if a = s.cnt.toNat then some b else Memory.get? s.pbuf a) ∧
  (∀ (b : Byte) (s : State), s.phase = .encFill → s.cnt.toNat = 128 →
    exec (.encData b) s = .next (raiseRefusal .bufFull s)) ∧
  (∀ (b : Byte) (s : State), s.phase ≠ .encFill → exec (.encData b) s = .next (raiseRefusal .wrongPhase s)) ∧
  (∀ b : Byte, decode (0x31#8 ++ b) = .instr (.encData b))

/-- ENC_END (42 R134): the bytes from CNT to 127 become 0x1A, each stepped through both accumulators, in one command;
from a state of the invariant, PBUF, CRC and SUM are then those of the padded payload. -/
def Obligations.EncEndPadsAndCloses : Prop :=
  (∀ s : State, s.phase = .encFill → ∃ mem : Memory,
    exec .encEnd s = .next { s with
      pbuf := mem,
      crc := (List.replicate (128 - s.cnt.toNat) 0x1A#8).foldl crcUpdate s.crc,
      sum := BitVec.ofNat 8 ((s.sum.toNat + 0x1A * (128 - s.cnt.toNat)) % 256),
      cnt := 0x00#8, phase := .encOut, responses := s.responses ++ [⟨0x0000#16, false⟩] } ∧
    ∀ a : Nat, Memory.get? mem a = if s.cnt.toNat ≤ a ∧ a < 128 then some 0x1A#8 else Memory.get? s.pbuf a) ∧
  (∀ s t : State, s.Inv → s.phase = .encFill → exec .encEnd s = .next t →
    t.payload 128 = s.payload s.cnt.toNat ++ List.replicate (128 - s.cnt.toNat) 0x1A#8 ∧
    t.crc = crc16 (t.payload 128) ∧ t.sum = checksum8 (t.payload 128)) ∧
  (∀ s : State, s.phase = .encFill → s.crc = 0x0000#16 → s.sum = 0x00#8 → s.cnt = 0x00#8 →
    ∃ t, exec .encEnd s = .next t ∧ t.crc = 0xF8B0#16 ∧ t.sum = 0x00#8) ∧
  (∀ s : State, s.phase ≠ .encFill → exec .encEnd s = .next (raiseRefusal .wrongPhase s)) ∧
  (∀ arg : Byte, decode (0x32#8 ++ arg) = if arg = 0x00#8 then .instr .encEnd else .badArg) ∧
  (∀ arg : Byte, arg ≠ 0x00#8 → refusedAtPort (0x32#8 ++ arg) .badArg)

/-- ENC_POP (42 R135, R136): the frame byte at index CNT, CNT advanced, and IDLE after the last byte. -/
def Obligations.EncPopReturnsTheNextFrameByte : Prop :=
  (∀ s : State, s.phase = .encOut →
    s.cnt.toNat < (if s.mode = .checksum then 132 else 133) → ∃ b : Byte,
    exec .encPop s = .next { s with
      cnt := BitVec.ofNat 8 (s.cnt.toNat + 1),
      phase := if s.cnt.toNat + 1 = (if s.mode = .checksum then 132 else 133) then .idle else .encOut,
      responses := s.responses ++ [⟨0x00#8 ++ b, false⟩] } ∧
    (s.cnt.toNat = 0 → b = 0x01#8) ∧
    (s.cnt.toNat = 1 → b = s.blk) ∧
    (s.cnt.toNat = 2 → b = ~~~ s.blk ∧ b.toNat = 255 - s.blk.toNat) ∧
    (3 ≤ s.cnt.toNat → s.cnt.toNat ≤ 130 → b = s.readBuf (BitVec.ofNat 7 (s.cnt.toNat - 3))) ∧
    (s.cnt.toNat = 131 → s.mode = .checksum → b = s.sum) ∧
    (s.cnt.toNat = 131 → s.mode = .crc16 → b = s.crc.extractLsb' 8 8) ∧
    (s.cnt.toNat = 132 → s.mode = .crc16 → b = s.crc.extractLsb' 0 8)) ∧
  (∀ s : State, s.phase ≠ .encOut → exec .encPop s = .next (raiseRefusal .wrongPhase s)) ∧
  (∀ arg : Byte, decode (0x33#8 ++ arg) = if arg = 0x00#8 then .instr .encPop else .badArg) ∧
  (∀ arg : Byte, arg ≠ 0x00#8 → refusedAtPort (0x33#8 ++ arg) .badArg)

/-! ## The decoder -/

/-- DEC_START (43 R151). -/
def Obligations.DecStartOpensADecode : Prop :=
  (∀ s : State, s.phase = .idle →
    exec .decStart s = .next { s with
      cnt := 0x00#8, crc := 0x0000#16, sum := 0x00#8, trl := 0x0000#16, res := .none, ovf := false, phase := .decIn,
      responses := s.responses ++ [⟨0x0000#16, false⟩] }) ∧
  (∀ s : State, s.phase ≠ .idle → exec .decStart s = .next (raiseRefusal .wrongPhase s)) ∧
  (∀ arg : Byte, decode (0x40#8 ++ arg) = if arg = 0x00#8 then .instr .decStart else .badArg) ∧
  (∀ arg : Byte, arg ≠ 0x00#8 → refusedAtPort (0x40#8 ++ arg) .badArg)

/-- DEC_DATA b (43 R152), position by position. -/
def Obligations.DecDataTakesAFrameByte : Prop :=
  (∀ (b : Byte) (s : State), s.phase = .decIn →
    s.cnt.toNat = (if s.mode = .checksum then 131 else 132) →
    exec (.decData b) s = .next { s with ovf := true, responses := s.responses ++ [⟨0x0000#16, false⟩] }) ∧
  (∀ (b : Byte) (s : State), s.phase = .decIn → s.cnt.toNat = 0 →
    exec (.decData b) s = .next { s with
      blk := b, cnt := 1#8, responses := s.responses ++ [⟨0x0000#16, false⟩] }) ∧
  (∀ (b : Byte) (s : State), s.phase = .decIn → s.cnt.toNat = 1 →
    exec (.decData b) s = .next { s with
      cmp := b, cnt := 2#8, responses := s.responses ++ [⟨0x0000#16, false⟩] }) ∧
  (∀ (b : Byte) (s : State), s.phase = .decIn → 2 ≤ s.cnt.toNat → s.cnt.toNat ≤ 129 → ∃ mem : Memory,
    exec (.decData b) s = .next { s with
      pbuf := mem, crc := crcUpdate s.crc b, sum := BitVec.ofNat 8 ((s.sum.toNat + b.toNat) % 256),
      cnt := BitVec.ofNat 8 (s.cnt.toNat + 1), responses := s.responses ++ [⟨0x0000#16, false⟩] } ∧
    ∀ a : Nat, Memory.get? mem a = if a = s.cnt.toNat - 2 then some b else Memory.get? s.pbuf a) ∧
  (∀ (b : Byte) (s : State), s.phase = .decIn → s.cnt.toNat = 130 → s.mode = .checksum →
    exec (.decData b) s = .next { s with
      trl := 0x00#8 ++ b, cnt := 131#8, responses := s.responses ++ [⟨0x0000#16, false⟩] }) ∧
  (∀ (b : Byte) (s : State), s.phase = .decIn → s.cnt.toNat = 130 → s.mode = .crc16 →
    exec (.decData b) s = .next { s with
      trl := b ++ s.trl.extractLsb' 0 8, cnt := 131#8, responses := s.responses ++ [⟨0x0000#16, false⟩] }) ∧
  (∀ (b : Byte) (s : State), s.phase = .decIn → s.cnt.toNat = 131 → s.mode = .crc16 →
    exec (.decData b) s = .next { s with
      trl := s.trl.extractLsb' 8 8 ++ b, cnt := 132#8, responses := s.responses ++ [⟨0x0000#16, false⟩] }) ∧
  (∀ (b : Byte) (s : State), s.phase ≠ .decIn → exec (.decData b) s = .next (raiseRefusal .wrongPhase s)) ∧
  (∀ b : Byte, decode (0x41#8 ++ b) = .instr (.decData b))

/-- DEC_END (43 R153) and the verdict, first matching line wins (43 R155): a frame error is a result, RERR = 0. -/
def Obligations.DecEndGivesTheVerdict : Prop :=
  (∀ s : State, s.phase = .decIn →
    let wrongLength : Prop := s.ovf = true ∨ s.cnt.toNat ≠ (if s.mode = .checksum then 131 else 132)
    let wrongPair : Prop := (s.blk.toNat + s.cmp.toNat) % 256 ≠ 255
    let wrongTrailer : Prop := (s.mode = .checksum ∧ s.trl.extractLsb' 0 8 ≠ s.sum) ∨ (s.mode = .crc16 ∧ s.trl ≠ s.crc)
    (wrongLength → exec .decEnd s = .next { s with
      res := .badLen, phase := .idle, responses := s.responses ++ [⟨0x0004#16, false⟩] }) ∧
    (¬ wrongLength → wrongPair → exec .decEnd s = .next { s with
      res := .badPair, phase := .idle, responses := s.responses ++ [⟨0x0002#16, false⟩] }) ∧
    (¬ wrongLength → ¬ wrongPair → wrongTrailer → exec .decEnd s = .next { s with
      res := .trlMismatch, phase := .idle, responses := s.responses ++ [⟨0x0003#16, false⟩] }) ∧
    (¬ wrongLength → ¬ wrongPair → ¬ wrongTrailer → exec .decEnd s = .next { s with
      res := .ok, phase := .idle, responses := s.responses ++ [⟨0x0001#16, false⟩] })) ∧
  (∀ s : State, s.phase ≠ .decIn → exec .decEnd s = .next (raiseRefusal .wrongPhase s)) ∧
  (∀ arg : Byte, decode (0x42#8 ++ arg) = if arg = 0x00#8 then .instr .decEnd else .badArg) ∧
  (∀ arg : Byte, arg ≠ 0x00#8 → refusedAtPort (0x42#8 ++ arg) .badArg)

/-- DEC_BLK_RD (43 R154). -/
def Obligations.DecBlkRdReturnsBlk : Prop :=
  (∀ s : State, exec .decBlkRd s = .next { s with responses := s.responses ++ [⟨0x00#8 ++ s.blk, false⟩] }) ∧
  (∀ arg : Byte, decode (0x43#8 ++ arg) = if arg = 0x00#8 then .instr .decBlkRd else .badArg) ∧
  (∀ arg : Byte, arg ≠ 0x00#8 → refusedAtPort (0x43#8 ++ arg) .badArg)

/-! ## Refusals -/

/-- The refusal operation writes what 60 R231 (b) and (c) say with the codes of R232, and any word answered RERR = 1 has
left the whole state as it was but for ERR and ERRCODE (R231 (a), (d)). -/
def Obligations.RefusalIsPrecise : Prop :=
  (∀ (c : Cause) (s : State), raiseRefusal c s = { s with
    err := true, errcode := if s.err then s.errcode else some c,
    responses := s.responses ++ [⟨match c with
      | .illegalOpcode => 1#16 | .badArg => 2#16 | .wrongPhase => 3#16 | .bufFull => 4#16, true⟩] }) ∧
  (∀ (s t : State) (w : Word) (rest : List PortEvent) (v : Word), s.port = .command w :: rest → step s = .next t →
    t.responses = s.responses ++ [⟨v, true⟩] → ∃ c : Cause, t = raiseRefusal c { s with port := rest })

/-- The acceptance matrix, which the spec derives from the Precondition and Refusals lines of the command rules (60 R234,
an inference the spec marks as its own): in each phase each command is accepted, or refused with WRONG_PHASE, or,
ENC_DATA in ENC_FILL without room, with BUF_FULL (for CNT above 128, which no run reaches, log entry 9). -/
def Obligations.AcceptanceMatrix : Prop :=
  (∀ s : State, ∀ i ∈ [Instr.nop, .abort, .errClr, .statusRd, .sumRd, .crcRd, .decBlkRd], answeredOk i s) ∧
  (∀ (s : State) (i : Instr), (∃ m, i = .setMode m) ∨ (∃ a, i = .bufRd a) ∨ i = .sumClr ∨ (∃ b, i = .sumByte b) ∨
      i = .crcClr ∨ (∃ b, i = .crcByte b) ∨ (∃ n, i = .encStart n) ∨ i = .decStart →
    (s.phase = .idle → answeredOk i s) ∧ (s.phase ≠ .idle → exec i s = .next (raiseRefusal .wrongPhase s))) ∧
  (∀ (s : State) (b : Byte),
    (s.phase = .encFill → s.cnt.toNat < 128 → answeredOk (.encData b) s) ∧
    (s.phase = .encFill → ¬ s.cnt.toNat < 128 → exec (.encData b) s = .next (raiseRefusal .bufFull s)) ∧
    (s.phase ≠ .encFill → exec (.encData b) s = .next (raiseRefusal .wrongPhase s))) ∧
  (∀ s : State, (s.phase = .encFill → answeredOk .encEnd s) ∧
    (s.phase ≠ .encFill → exec .encEnd s = .next (raiseRefusal .wrongPhase s))) ∧
  (∀ s : State, (s.phase = .encOut → answeredOk .encPop s) ∧
    (s.phase ≠ .encOut → exec .encPop s = .next (raiseRefusal .wrongPhase s))) ∧
  (∀ (s : State) (i : Instr), (∃ b, i = .decData b) ∨ i = .decEnd →
    (s.phase = .decIn → answeredOk i s) ∧ (s.phase ≠ .decIn → exec i s = .next (raiseRefusal .wrongPhase s))) ∧
  (∀ (s : State) (i : Instr), answeredOk i s ↔ accepts i s)

/-! ## Frames -/

/-- Register frame of all twenty commands: an accepted command leaves every register unchanged but those of the column
"written by command" of 10_state R20; a refused one every register but ERR and ERRCODE. -/
def Obligations.RegistersChangeOnlyAsListed : Prop :=
  ∀ (i : Instr) (s t : State), exec i s = .next t →
    (accepts i s → ∀ r : Reg, r ∉ writtenBy i → sameReg r s t) ∧
    (¬ accepts i s → ∀ r : Reg, r ≠ .err → r ≠ .errcode → sameReg r s t)

/-- Memory frame of the seventeen commands that store nothing (20_memory R51): NOP, ABORT, ERR_CLR, SET_MODE, STATUS_RD,
BUF_RD, SUM_CLR, SUM_BYTE, SUM_RD, CRC_CLR, CRC_BYTE, CRC_RD, ENC_START, ENC_POP, DEC_START, DEC_END, DEC_BLK_RD, and of
every refused command: every byte of PBUF reads as before. -/
def Obligations.OtherCommandsLeaveTheBuffer : Prop :=
  ∀ (i : Instr) (s t : State), exec i s = .next t → storesToBuffer i = false ∨ ¬ accepts i s →
    ∀ a : Addr, t.readBuf a = s.readBuf a

/-- Memory frame of the encoder's storing commands: ENC_DATA stores at the address its meaning forms from CNT
(20_memory R51) and nowhere else; ENC_END stores the pad byte at the addresses CNT to 127 and nowhere else. -/
def Obligations.EncoderStoresOnlyAtItsAddresses : Prop :=
  (∀ (b : Byte) (s t : State), s.phase = .encFill → s.cnt.toNat < 128 → exec (.encData b) s = .next t →
    (fillAddr s.cnt).toNat = s.cnt.toNat ∧
    ∀ a : Addr, t.readBuf a = if a = fillAddr s.cnt then b else s.readBuf a) ∧
  (∀ s t : State, s.phase = .encFill → exec .encEnd s = .next t →
    ∀ a : Addr, t.readBuf a = if s.cnt.toNat ≤ a.toNat then 0x1A#8 else s.readBuf a)

/-- Memory frame of DEC_DATA: for 2 <= CNT <= 129 it stores at the address its meaning forms from CNT (20_memory R51);
at every other CNT, and for the excess byte, every byte of PBUF reads as before. -/
def Obligations.DecDataStoresAtItsAddress : Prop :=
  ∀ (b : Byte) (s t : State), s.phase = .decIn → exec (.decData b) s = .next t →
    (recvStores s.cnt = true ↔ 2 ≤ s.cnt.toNat ∧ s.cnt.toNat ≤ 129) ∧
    (recvStores s.cnt = true → (recvAddr s.cnt).toNat = s.cnt.toNat - 2 ∧
      ∀ a : Addr, t.readBuf a = if a = recvAddr s.cnt then b else s.readBuf a) ∧
    (recvStores s.cnt = false → ∀ a : Addr, t.readBuf a = s.readBuf a)

/-! ## Invariants and whole-machine rules -/

/-- The invariant of 10_state R40, which the spec marks as derived (Safety.lean, `State.Inv`, with the model's own clauses
on PBUF, log entry 7), is kept by every step: command, refused word or reset. -/
def Obligations.EveryStepKeepsTheInvariant : Prop :=
  ∀ s t : State, s.Inv → step s = .next t → t.Inv

/-- The invariant holds after reset (10_state R40, which the spec marks as derived). -/
def Obligations.InvariantHoldsAtReset : Prop := State.reset.Inv

/-- From every state whose PBUF is in canonical form, which is the model's own (log entry 7), every step gives such a
state: no address outside 0 to 127 is formed (20_memory R56). -/
def Obligations.EveryStepKeepsTheBufferCanonical : Prop :=
  ∀ s t : State, Memory.wf s.pbuf = true → step s = .next t → Memory.wf t.pbuf = true

/-- What 10_state R40, which the spec marks as derived, says with its own numbers, and 10_state R35's bound on CNT, of
every state of the invariant. -/
def Obligations.InvariantGivesTheSpecsBounds : Prop :=
  ∀ s : State, s.Inv →
    (s.phase = .encFill → s.cnt.toNat ≤ 128 ∧ s.crc = crc16 (s.payload s.cnt.toNat) ∧
      s.sum = checksum8 (s.payload s.cnt.toNat)) ∧
    (s.phase = .encOut → s.cnt.toNat ≤ (if s.mode = .checksum then 131 else 132) ∧
      s.crc = crc16 (s.payload 128) ∧ s.sum = checksum8 (s.payload 128)) ∧
    (s.phase = .decIn → s.cnt.toNat ≤ (if s.mode = .checksum then 131 else 132)) ∧
    (s.phase = .decIn → 2 ≤ s.cnt.toNat → s.crc = crc16 (s.payload (min s.cnt.toNat 130 - 2)) ∧
      s.sum = checksum8 (s.payload (min s.cnt.toNat 130 - 2))) ∧
    (s.ovf = true → (s.phase = .decIn ∧ s.cnt.toNat = (if s.mode = .checksum then 131 else 132)) ∨
      s.phase = .idle) ∧
    (errcodeBits s.errcode = 0#3 ↔ s.err = false) ∧ s.res.code.toNat ≤ 4 ∧ (errcodeBits s.errcode).toNat ≤ 4 ∧
    ∀ (i : Instr) (t : State), exec i s = .next t → t.cnt ≠ s.cnt → t.cnt.toNat ≤ 133

/-- The transitions of PHASE (10_state R28): no step changes PHASE but those listed there. -/
def Obligations.PhaseMovesOnlyAsListed : Prop :=
  ∀ (s t : State) (e : PortEvent) (rest : List PortEvent), s.port = e :: rest → step s = .next t → t.phase ≠ s.phase →
    (s.phase = .idle ∧ t.phase = .encFill ∧ ∃ n, e = .command (encode (.encStart n))) ∨
    (s.phase = .encFill ∧ t.phase = .encOut ∧ e = .command (encode .encEnd)) ∨
    (s.phase = .encOut ∧ t.phase = .idle ∧ e = .command (encode .encPop) ∧
      s.cnt.toNat + 1 = Config.frameLen s.mode) ∨
    (s.phase = .idle ∧ t.phase = .decIn ∧ e = .command (encode .decStart)) ∨
    (s.phase = .decIn ∧ t.phase = .idle ∧ e = .command (encode .decEnd)) ∨
    (t.phase = .idle ∧ (e = .command (encode .abort) ∨ e = .reset))

/-- MODE is written only by SET_MODE, only in IDLE, and by reset (10_state R23, 70 R265): it cannot change inside a
frame. -/
def Obligations.ModeChangesOnlyBySetModeInIdle : Prop :=
  ∀ (s t : State) (e : PortEvent) (rest : List PortEvent), s.port = e :: rest → step s = .next t → t.mode ≠ s.mode →
    (s.phase = .idle ∧ e = .command (encode (.setMode t.mode))) ∨ (e = .reset ∧ t.mode = .checksum)

/-- OVF (10_state R30): set only by a DEC_DATA at CNT = REM_LEN(MODE); cleared by DEC_START, ENC_START, ABORT and reset;
DEC_END with OVF = 1 gives BAD_LEN; 0 after reset. -/
def Obligations.OvfIsSetAndClearedAsListed : Prop :=
  (∀ (s t : State) (e : PortEvent) (rest : List PortEvent), s.port = e :: rest → step s = .next t →
    (s.ovf = false → t.ovf = true →
      s.phase = .decIn ∧ s.cnt.toNat = Config.remLen s.mode ∧ ∃ b, e = .command (encode (.decData b))) ∧
    (s.ovf = true → t.ovf = false → e = .command (encode .abort) ∨ e = .reset ∨
      (s.phase = .idle ∧ (e = .command (encode .decStart) ∨ ∃ n, e = .command (encode (.encStart n)))))) ∧
  (∀ (b : Byte) (s : State), s.phase = .decIn → s.cnt.toNat = Config.remLen s.mode →
    ∃ t, exec (.decData b) s = .next t ∧ t.ovf = true) ∧
  (∀ s : State, s.phase = .idle → ∀ n : Byte, (∃ t, exec (.encStart n) s = .next t ∧ t.ovf = false) ∧
    (∃ t, exec .decStart s = .next t ∧ t.ovf = false)) ∧
  (∀ s : State, ∃ t, exec .abort s = .next t ∧ t.ovf = false) ∧
  (∀ s : State, s.phase = .decIn → s.ovf = true → ∃ t, exec .decEnd s = .next t ∧ t.res = .badLen) ∧
  State.reset.ovf = false

/-- ERR (10_state R31): every refused command sets it, only ERR_CLR and reset clear it, no command's acceptance depends
on it, and it is 0 after reset. -/
def Obligations.ErrIsSticky : Prop :=
  (∀ (s t : State) (w : Word) (rest : List PortEvent) (v : Word), s.port = .command w :: rest → step s = .next t →
    t.responses = s.responses ++ [⟨v, true⟩] → t.err = true) ∧
  (∀ (s t : State) (e : PortEvent) (rest : List PortEvent), s.port = e :: rest → step s = .next t → s.err = true →
    t.err = false → e = .command (encode .errClr) ∨ e = .reset) ∧
  (∀ s : State, (∃ t, exec .errClr s = .next t ∧ t.err = false) ∧ (resetBlock s).err = false) ∧
  (∀ (i : Instr) (s : State) (e : Bool), answeredOk i s ↔ answeredOk i { s with err := e }) ∧
  State.reset.err = false

/-- ERRCODE (10_state R32): the cause of the first command refused since ERR was last 0; kept by a refusal while
ERR = 1; 0 after ERR_CLR and reset; and ERRCODE = 0 exactly when ERR = 0, kept by every step. -/
def Obligations.ErrcodeKeepsTheFirstCause : Prop :=
  (∀ (s t : State) (w : Word) (rest : List PortEvent) (c : Cause), s.port = .command w :: rest → step s = .next t →
    t.responses = s.responses ++ [⟨c.code.setWidth 16, true⟩] →
    (s.err = false → t.errcode = some c) ∧ (s.err = true → t.errcode = s.errcode)) ∧
  (∀ s : State, (∃ t, exec .errClr s = .next t ∧ t.errcode = none) ∧ (resetBlock s).errcode = none) ∧
  (∀ s t : State, (s.errcode = none ↔ s.err = false) → step s = .next t → (t.errcode = none ↔ t.err = false)) ∧
  (State.reset.errcode = none ∧ State.reset.err = false)

/-! ## Laws of the accumulators -/

/-- The law of the accumulator (40 R104, which the spec derives from R100 to R103), and the same register under the
framer. -/
def Obligations.ChecksumCommandsComputeChecksum8 : Prop :=
  (∀ (d : List Byte) (s : State) (rest : List PortEvent), s.phase = .idle →
    s.port = commandEvents (macroChecksum8 d) ++ rest →
    runSteps (d.length + 2) s = .next { s with
      port := rest, sum := checksum8 d,
      responses := s.responses ++ List.replicate (d.length + 1) ⟨0x0000#16, false⟩ ++
        [⟨(checksum8 d).setWidth 16, false⟩] }) ∧
  (∀ (d : List Byte) (s : State) (rest : List PortEvent), s.phase = .idle →
    s.port = commandEvents (d.map .sumByte) ++ rest →
    runSteps d.length s = .next { s with
      port := rest, sum := s.sum + checksum8 d,
      responses := s.responses ++ List.replicate d.length ⟨0x0000#16, false⟩ }) ∧
  (∀ (n : Byte) (p : List Byte) (s : State) (rest : List PortEvent), s.phase = .idle → p.length ≤ 128 →
    s.port = commandEvents (fillSeq n p) ++ rest →
    ∃ t, runSteps (p.length + 2) s = .next t ∧ t.phase = .encOut ∧ t.sum = checksum8 (padTo128 p)) ∧
  (∀ (f : List Byte) (s : State) (rest : List PortEvent), s.phase = .idle → 130 ≤ f.length →
    s.port = commandEvents (receiveSeq f) ++ rest →
    ∃ t, runSteps (f.length + 1) s = .next t ∧ t.phase = .decIn ∧ t.sum = checksum8 ((f.drop 2).take 128))

/-- The law of the generator (41 R116, which the spec derives from R110 to R115), and the same register under the
framer. -/
def Obligations.CrcCommandsComputeCrc16 : Prop :=
  (∀ (d : List Byte) (s : State) (rest : List PortEvent), s.phase = .idle →
    s.port = commandEvents (macroCrc16 d) ++ rest →
    runSteps (d.length + 2) s = .next { s with
      port := rest, crc := crc16 d,
      responses := s.responses ++ List.replicate (d.length + 1) ⟨0x0000#16, false⟩ ++ [⟨crc16 d, false⟩] }) ∧
  (∀ (n : Byte) (p : List Byte) (s : State) (rest : List PortEvent), s.phase = .idle → p.length ≤ 128 →
    s.port = commandEvents (fillSeq n p) ++ rest →
    ∃ t, runSteps (p.length + 2) s = .next t ∧ t.phase = .encOut ∧ t.crc = crc16 (padTo128 p)) ∧
  (∀ (f : List Byte) (s : State) (rest : List PortEvent), s.phase = .idle → 130 ≤ f.length →
    s.port = commandEvents (receiveSeq f) ++ rest →
    ∃ t, runSteps (f.length + 1) s = .next t ∧ t.phase = .decIn ∧ t.crc = crc16 ((f.drop 2).take 128))

/-- checksum8 is the sum of all bytes modulo 256 (40 R100) and has the properties of 40 R105 (a) to (e), which the spec
derives from R100. -/
def Obligations.ChecksumArithmetic : Prop :=
  (∀ d : List Byte, (checksum8 d).toNat = (d.map BitVec.toNat).sum % 256) ∧
  (∀ d d' : List Byte, d.Perm d' → checksum8 d = checksum8 d') ∧
  (∀ d : List Byte, checksum8 (d.filter fun b => b ≠ 0x00#8) = checksum8 d) ∧
  (∀ (x y z : List Byte) (a b e : Byte),
    checksum8 (x ++ [a + e] ++ y ++ [b - e] ++ z) = checksum8 (x ++ [a] ++ y ++ [b] ++ z)) ∧
  (∀ (x y : List Byte) (a b : Byte), a ≠ b → checksum8 (x ++ [a] ++ y) ≠ checksum8 (x ++ [b] ++ y)) ∧
  (∀ b : Byte, checksum8 (List.replicate 128 b) = if b.toNat % 2 = 0 then 0x00#8 else 0x80#8)

/-- Linearity, leading zeros and zero residue (41 R117 (c), (d), (e), which the spec derives from R111 and R112). -/
def Obligations.CrcLinearityLeadingZerosResidue : Prop :=
  (∀ (c c' : Word) (b b' : Byte), crcUpdate (c ^^^ c') (b ^^^ b') = crcUpdate c b ^^^ crcUpdate c' b') ∧
  (∀ a b : List Byte, a.length = b.length →
    crc16 (List.zipWith (fun x y => x ^^^ y) a b) = crc16 a ^^^ crc16 b) ∧
  (∀ (k : Nat) (d : List Byte), crc16 (List.replicate k 0x00#8 ++ d) = crc16 d) ∧
  (∀ d : List Byte, crc16 (d ++ [(crc16 d).extractLsb' 8 8, (crc16 d).extractLsb' 0 8]) = 0x0000#16)

/-- The table form and the parallel form of crc_update (41 R118 (a), (b), which the spec derives from R111). -/
def Obligations.CrcTableAndParallelForms : Prop :=
  ∀ (c : Word) (b : Byte),
    crcUpdate c b = (c <<< 8) ^^^ crcUpdate 0x0000#16 (c.extractLsb' 8 8 ^^^ b) ∧
    let x := fun i => c.getLsbD i
    let d := fun i => b.getLsbD i
    let n := fun i => (crcUpdate c b).getLsbD i
    n 15 = (x 7 ^^ x 11 ^^ x 15 ^^ d 3 ^^ d 7) ∧
    n 14 = (x 6 ^^ x 10 ^^ x 14 ^^ d 2 ^^ d 6) ∧
    n 13 = (x 5 ^^ x 9 ^^ x 13 ^^ d 1 ^^ d 5) ∧
    n 12 = (x 4 ^^ x 8 ^^ x 12 ^^ x 15 ^^ d 0 ^^ d 4 ^^ d 7) ∧
    n 11 = (x 3 ^^ x 14 ^^ d 6) ∧
    n 10 = (x 2 ^^ x 13 ^^ d 5) ∧
    n 9 = (x 1 ^^ x 12 ^^ d 4) ∧
    n 8 = (x 0 ^^ x 11 ^^ x 15 ^^ d 3 ^^ d 7) ∧
    n 7 = (x 10 ^^ x 14 ^^ x 15 ^^ d 2 ^^ d 6 ^^ d 7) ∧
    n 6 = (x 9 ^^ x 13 ^^ x 14 ^^ d 1 ^^ d 5 ^^ d 6) ∧
    n 5 = (x 8 ^^ x 12 ^^ x 13 ^^ d 0 ^^ d 4 ^^ d 5) ∧
    n 4 = (x 12 ^^ d 4) ∧
    n 3 = (x 11 ^^ x 15 ^^ d 3 ^^ d 7) ∧
    n 2 = (x 10 ^^ x 14 ^^ d 2 ^^ d 6) ∧
    n 1 = (x 9 ^^ x 13 ^^ d 1 ^^ d 5) ∧
    n 0 = (x 8 ^^ x 12 ^^ d 0 ^^ d 4)

/-- crc16(d) is the remainder of M(x) * x^16 divided by G(x) = x^16 + x^12 + x^5 + 1 over GF(2) (41 R112, which the
spec derives from R111): the two differ by a multiple of G, and a 16-bit value is a polynomial of degree below 16. -/
def Obligations.CrcIsThePolynomialRemainder : Prop :=
  ∀ d : List Byte, ∃ q : Polynomial (ZMod 2),
    (messageBits d).foldl (fun acc bit => acc * Polynomial.X + (if bit then 1 else 0)) 0 * Polynomial.X ^ 16 =
      q * (Polynomial.X ^ 16 + Polynomial.X ^ 12 + Polynomial.X ^ 5 + 1) +
        ((List.range 16).map fun i => if (crc16 d).getLsbD i then (Polynomial.X : Polynomial (ZMod 2)) ^ i else 0).sum

/-! ## Laws of the framer -/

/-- The law of the encoder (42 R137, which the spec derives from R130 to R136): any interleaving of the sequence with
the harmless commands is accepted command by command, the responses of its ENC_POP commands are the frame, and the
final registers are those the rule lists. -/
def Obligations.EncoderSequenceEmitsTheFrame : Prop :=
  ∀ (m : Mode) (n : Byte) (p : List Byte) (is : List Instr) (s : State) (rest : List PortEvent),
    s.phase = .idle → s.mode = m → p.length ≤ 128 → (is.filter fun i => !harmless i) = encodeSeq m n p →
    s.port = commandEvents is ++ rest →
    ∃ (t : State) (rs : List Response), runSteps is.length s = .next t ∧ t.port = rest ∧
      t.responses = s.responses ++ rs ∧ rs.length = is.length ∧ (∀ r ∈ rs, r.rerr = false) ∧
      ((is.zip rs).filter fun x => x.1 = Instr.encPop).map (fun x => x.2.rdata.extractLsb' 0 8) = encodeFrame m n p ∧
      t.phase = .idle ∧ t.blk = n ∧ t.payload 128 = padTo128 p ∧ t.crc = crc16 (padTo128 p) ∧
      t.sum = checksum8 (padTo128 p) ∧ t.cnt.toNat = Config.frameLen m ∧ t.res = .none ∧ t.ovf = false ∧
      t.mode = s.mode ∧ t.cmp = s.cmp ∧ t.trl = s.trl ∧ t.resets = s.resets ∧
      (Instr.errClr ∉ is → t.err = s.err ∧ t.errcode = s.errcode) ∧
      (Instr.errClr ∈ is → t.err = false ∧ t.errcode = none)

/-- `encode` (42 R130, R131; 30_encoding R81 to R84): the frame, field by field, of 132 or 133 bytes. -/
def Obligations.EncodeLaysOutTheFrame : Prop :=
  ∀ (m : Mode) (n : Byte) (p : List Byte), p.length ≤ 128 →
    let f := encodeFrame m n p
    f.length = (if m = .checksum then 132 else 133) ∧
    f.getD 0 0 = 0x01#8 ∧ f.getD 1 0 = n ∧ f.getD 2 0 = n ^^^ 0xFF#8 ∧
    ((f.getD 1 0).toNat + (f.getD 2 0).toNat) % 256 = 255 ∧
    (f.drop 3).take 128 = p ++ List.replicate (128 - p.length) 0x1A#8 ∧
    (m = .checksum → f.drop 131 = [checksum8 (padTo128 p)]) ∧
    (m = .crc16 → f.drop 131 = [(crc16 (padTo128 p)).extractLsb' 8 8, (crc16 (padTo128 p)).extractLsb' 0 8])

/-- The law of the decoder (43 R156, which the spec derives from R150 to R155): for any bytes of any length the
sequence is accepted command by command, DEC_END answers the code of decode(m, f), and on OK BLK and PBUF are the
decoded block. -/
def Obligations.DecoderSequenceGivesTheVerdict : Prop :=
  ∀ (f : List Byte) (s : State) (rest : List PortEvent), s.phase = .idle →
    s.port = commandEvents (decodeSeq f) ++ rest →
    ∃ t, runSteps (f.length + 2) s = .next t ∧ t.port = rest ∧ t.phase = .idle ∧ t.mode = s.mode ∧
      t.responses = s.responses ++ List.replicate (f.length + 1) ⟨0x0000#16, false⟩ ++
        [⟨(decodeFrame s.mode f).code, false⟩] ∧
      t.res.code.setWidth 16 = (decodeFrame s.mode f).code ∧ t.err = s.err ∧ t.errcode = s.errcode ∧
      (t.res = .ok → t.blk = f.getD 0 0 ∧ t.payload 128 = (f.drop 2).take 128 ∧
        decodeFrame s.mode f = .ok t.blk (t.payload 128))

/-- The round-trip law (43 R157, which the spec derives from R130 and R150): as functions, and as commands from one
instance to another in the same mode. -/
def Obligations.DecodeInvertsEncode : Prop :=
  (∀ (m : Mode) (n : Byte) (p : List Byte), p.length ≤ 128 →
    decodeFrame m ((encodeFrame m n p).drop 1) = .ok n (padTo128 p)) ∧
  (∀ (n : Byte) (p : List Byte) (s u : State), s.phase = .idle → u.phase = .idle → u.mode = s.mode → p.length ≤ 128 →
    ((codecEncode n p s).2.drop 1).length = Config.remLen s.mode ∧
    (codecDecode ((codecEncode n p s).2.drop 1) u).2 = 0x0001#16 ∧
    (codecDecode ((codecEncode n p s).2.drop 1) u).1.res = .ok ∧
    (codecDecode ((codecEncode n p s).2.drop 1) u).1.blk = n ∧
    (codecDecode ((codecEncode n p s).2.drop 1) u).1.payload 128 = padTo128 p ∧
    (codecReadout (codecDecode ((codecEncode n p s).2.drop 1) u).1).2 = (n, padTo128 p))

/-- What a one-place corruption of a valid frame remainder gives (43 R158 (a), (b), (c), which the spec derives
from R155). -/
def Obligations.OneByteCorruptionIsDetected : Prop :=
  ∀ (m : Mode) (n : Byte) (p : List Byte), p.length ≤ 128 →
    let f := (encodeFrame m n p).drop 1
    (∀ (k : Nat) (b : Byte), k ≤ 1 → b ≠ f.getD k 0 → decodeFrame m (f.set k b) = .err .badBlockNumberPair) ∧
    (∀ tr : List Byte, tr.length = Config.trailerLen m → tr ≠ f.drop 130 →
      decodeFrame m (f.take 130 ++ tr) = .err .checksumMismatch) ∧
    (∀ (k : Nat) (b : Byte), 2 ≤ k → k ≤ 129 → b ≠ f.getD k 0 → decodeFrame m (f.set k b) = .err .checksumMismatch) ∧
    (∀ n' : Byte, decodeFrame m ((f.set 0 n').set 1 (0xFF#8 - n')) = .ok n' (padTo128 p))

/-! ## The host's protocol (outside the block, 45 R190) -/

/-- CAN (45 R208): a sender awaiting a control byte and a receiver awaiting one abort at once and write nothing; inside
a frame remainder the byte is data. That R208 also covers the start and EOT steps is read from its "at any point" (log
entry 17); that the instance is left as it is, or closed with ABORT exactly when its PHASE is not IDLE, is read from R211
(log entry 22). -/
def Obligations.CanAbortsATransferAtOnce : Prop :=
  (∀ (s : Sender) (w : WriteResult), (∀ o, s.phase ≠ .finished o) →
    s.step (.got [0x18#8]) w =
      ({ s with phase := .finished (.aborted .peerAbort), codec := codecClose s.codec }, [])) ∧
  (∀ (s : Receiver) (w : WriteResult), s.phase = .negotiating ∨ s.phase = .scanning →
    s.step (.got [0x18#8]) w =
      ({ s with phase := .finished (.aborted .peerAbort), codec := codecClose s.codec }, [])) ∧
  (∀ (s : Receiver) (f : List Byte) (w : WriteResult), s.phase = .readingFrame →
    (s.step (.got f) w).1.phase ≠ .finished (.aborted .peerAbort))

/-- The sender's budgets (45 R196, R197, R198): six reads without a start byte end it without CAN; ten responses that are
no ACK (and no CAN, R208) send the same frame ten times in all and then CAN; ten at the end send EOT ten times in all and
no CAN. A read gives one byte or nothing, and every write succeeds. -/
def Obligations.SenderRetriesAreBounded : Prop :=
  (∀ (ts : List Turn) (boot : Boot) (file : List Byte) (codec : State), ts.length = 6 →
    (∀ t ∈ ts, t.read = .got [] ∨ ∃ b, t.read = .got [b] ∧ b ≠ 0x15#8 ∧ b ≠ 0x43#8 ∧ b ≠ 0x18#8) →
    ((Sender.start boot file codec).run ts).1.phase = .finished (.aborted .noStartSignal) ∧
    ((Sender.start boot file codec).run ts).2 = []) ∧
  (∀ (ts : List Turn) (s : Sender) (n : Byte), ts.length = 10 → s.phase = .sendingBlock n → s.attempts = 0 →
    s.inFlight.length ≤ 128 → s.codec.phase = .idle → (∀ t ∈ ts, t.write = .all) →
    (∀ t ∈ ts, t.read = .got [] ∨ ∃ b, t.read = .got [b] ∧ b ≠ 0x06#8 ∧ b ≠ 0x18#8) →
    (s.run ts).1.phase = .finished (.aborted .retryBudgetExhausted) ∧
    (s.run ts).2 = (List.replicate 9 (encodeFrame s.codec.mode n s.inFlight)).flatten ++ [0x18#8]) ∧
  (∀ (ts : List Turn) (s : Sender), ts.length = 10 → s.phase = .awaitEot → s.attempts = 0 →
    s.codec.phase = .idle → (∀ t ∈ ts, t.write = .all) →
    (∀ t ∈ ts, t.read = .got [] ∨ ∃ b, t.read = .got [b] ∧ b ≠ 0x06#8 ∧ b ≠ 0x18#8) →
    (s.run ts).1.phase = .finished (.aborted .eotNotAcknowledged) ∧
    (s.run ts).2 = List.replicate 9 0x04#8)

/-- What the receiver does with a frame remainder (45 R203, R204, R205): the expected block is appended and acknowledged,
with a fresh budget (R194); while attempts are left, an undecodable frame (a short one among them, R202) or another block
number is answered NAK and changes neither the stream nor `expected`; and when the write of the answer fails the transfer
is aborted and nothing is delivered (R210). A remainder longer than was asked for goes whole to the decoder (log
entry 19); the last attempt is log entry 18, and that `expected` stays on a failed write is log entry 20. -/
def Obligations.ReceiverAppendsOnlyTheExpectedBlock : Prop :=
  ∀ (s : Receiver) (f : List Byte), s.phase = .readingFrame → s.codec.phase = .idle → s.codec.mode = s.mode →
    (∀ q, decodeFrame s.mode f = .ok s.expected q →
      (s.step (.got f) .all).2 = [0x06#8] ∧ (s.step (.got f) .all).1.assembled = s.assembled ++ q ∧
      (s.step (.got f) .all).1.expected = s.expected + 1 ∧ (s.step (.got f) .all).1.phase = .scanning ∧
      (s.step (.got f) .all).1.attempts = 0) ∧
    (s.attempts + 1 < 10 → (∀ q, decodeFrame s.mode f ≠ .ok s.expected q) →
      (s.step (.got f) .all).2 = [0x15#8] ∧ (s.step (.got f) .all).1.assembled = s.assembled ∧
      (s.step (.got f) .all).1.expected = s.expected ∧ (s.step (.got f) .all).1.phase = .scanning ∧
      (s.step (.got f) .all).1.attempts = s.attempts + 1) ∧
    (∀ w : WriteResult, w = .part 0 ∨ (∃ k, w = .ioError k) →
      (s.step (.got f) w).1.phase = .finished (.aborted .transportError) ∧ (s.step (.got f) w).1.sink = s.sink ∧
      (s.step (.got f) w).1.expected = s.expected)

/-- Whatever state its instance is in, a host that sets it up as 70 R263 says has it in IDLE with its mode selected, with
a clean refusal record if it reset the block or asked for one (that SET_MODE is issued again after an ABORT is the model's
choice, log entry 30); and over a lossless link, from any two instances so set up, any file of at least one byte is
transferred: both sides end Completed, and what is delivered is the file without the pad bytes it ends in (45 R212, R207).
The order of reads on the link and the reads of the file are the model's choice (log entries 24, 25). -/
def Obligations.LosslessLinkDeliversTheFile : Prop :=
  (∀ (boot : Boot) (m : Mode) (s : State), (boot.setUp m s).phase = .idle ∧ (boot.setUp m s).mode = m ∧
    (boot = .reset ∨ boot = .check true → (boot.setUp m s).err = false ∧ (boot.setUp m s).errcode = none)) ∧
  (∀ (boot : Boot) (m : Mode) (file : List Byte) (a b : State), file ≠ [] →
    ∃ k : Nat, ((Link.start boot m file a b).run k).sender.phase = .finished .completed ∧
      ((Link.start boot m file a b).run k).receiver.phase = .finished .completed ∧
      ((Link.start boot m file a b).run k).receiver.sink = stripPad file)
end

