-- ==== Sys2Proof/Laws/HostSide.lean ====
section
/-! SUPPORT. The host's writes (45 R191, R210): a write of nothing and a whole write never fail, so the step of a state
machine is then its reaction; and the host's look at STATUS (70 R263). -/

namespace Sys2Proof.Machine

@[simp] theorem writeFailed_nil (w : WriteResult) : writeFailed w [] = false := by cases w <;> rfl
@[simp] theorem taken_nil (w : WriteResult) : taken w [] = [] := by cases w <;> simp [taken]
@[simp] theorem writeFailed_all (bs : List Byte) : writeFailed .all bs = false := rfl
@[simp] theorem taken_all (bs : List Byte) : taken .all bs = bs := rfl
theorem writeFailed_ioError {bs : List Byte} (h : bs ≠ []) (n : Nat) : writeFailed (.ioError n) bs = true :=
  decide_eq_true h
theorem writeFailed_part {bs : List Byte} {n : Nat} (h : n < bs.length) : writeFailed (.part n) bs = true :=
  decide_eq_true h

@[simp] theorem Sender.settle_nil (w : WriteResult) (s : Sender) : Sender.settle w (s, []) = (s, []) := by
  simp [Sender.settle]
@[simp] theorem Sender.settle_all (x : Sender × List Byte) : Sender.settle .all x = x := rfl
@[simp] theorem Receiver.settle_nil (w : WriteResult) (b s : Receiver) : Receiver.settle w b (s, []) = (s, []) := by
  simp [Receiver.settle]
@[simp] theorem Receiver.settle_all (b : Receiver) (x : Receiver × List Byte) : Receiver.settle .all b x = x := rfl

theorem Sender.step_all (r : ReadResult) (s : Sender) : s.step r .all = s.react r := rfl
theorem Receiver.step_all (r : ReadResult) (s : Receiver) : s.step r .all = s.react r := rfl

/-- A failed write ends the sender in the transport error, whatever it was to do next. -/
theorem Sender.settle_failed {w : WriteResult} {x : Sender × List Byte} (h : writeFailed w x.2 = true) :
    Sender.settle w x = (x.1.finish (.aborted .transportError), taken w x.2) := by
  simp [Sender.settle, h]

/-- A failed write ends the receiver in the transport error: nothing is delivered and `expected` stays. -/
theorem Receiver.settle_failed {w : WriteResult} {b : Receiver} {x : Receiver × List Byte}
    (h : writeFailed w x.2 = true) : Receiver.settle w b x =
      ({ x.1.finish (.aborted .transportError) with expected := b.expected, sink := b.sink }, taken w x.2) := by
  simp [Receiver.settle, h]

/-- A frame remainder is always answered. -/
theorem Receiver.onFrame_writes (f : List Byte) (s : Receiver) : (s.onFrame f).2 ≠ [] := by
  simp only [Receiver.onFrame, Receiver.onBlock, Receiver.keep, Receiver.reject]
  split
  · split <;> exact List.cons_ne_nil _ _
  · exact List.cons_ne_nil _ _

/-- A command that answers `v` and appends one response: `v` is what the host reads. -/
theorem lastAnswer_append {s t : State} {v : Word} {e : Bool} (h : t.responses = s.responses ++ [⟨v, e⟩]) :
    lastAnswer s t = v := by
  simp [lastAnswer, answersSince, h]

@[simp] theorem issue_statusRd (s : State) : issue .statusRd s = respond (statusWord s) s := rfl
@[simp] theorem lastAnswer_statusRd (s : State) : lastAnswer s (respond (statusWord s) s) = statusWord s :=
  lastAnswer_append rfl

/-- Bits 1:0 of STATUS are PHASE, whatever the fields above them (10_state R34). -/
theorem status_low_bits : ∀ (p : BitVec 2) (m e o : BitVec 1) (c r : BitVec 3),
    ((p.setWidth 16 + (m.setWidth 16 <<< 2) + (e.setWidth 16 <<< 3) + (c.setWidth 16 <<< 4) + (o.setWidth 16 <<< 7)
      + (r.setWidth 16 <<< 8) : Word)).extractLsb' 0 2 = p := by decide +kernel

/-- STATUS shows IDLE exactly in IDLE. -/
theorem statusShowsIdle_iff (s : State) : statusShowsIdle (statusWord s) = true ↔ s.phase = .idle := by
  unfold statusShowsIdle statusWord
  rw [status_low_bits]
  cases s.phase <;> decide

end Sys2Proof.Machine
end

