-- ==== Sys2Proof/Laws/State.lean ====
section
/-! SUPPORT. One lemma a field for each shared update of State, all true by rfl, so that no proof unfolds an update. -/

namespace Sys2Proof.Machine

@[simp] theorem respond_crc (v : Word) (s : State) : (respond v s).crc = s.crc := rfl
@[simp] theorem respond_sum (v : Word) (s : State) : (respond v s).sum = s.sum := rfl
@[simp] theorem respond_mode (v : Word) (s : State) : (respond v s).mode = s.mode := rfl
@[simp] theorem respond_blk (v : Word) (s : State) : (respond v s).blk = s.blk := rfl
@[simp] theorem respond_cmp (v : Word) (s : State) : (respond v s).cmp = s.cmp := rfl
@[simp] theorem respond_trl (v : Word) (s : State) : (respond v s).trl = s.trl := rfl
@[simp] theorem respond_cnt (v : Word) (s : State) : (respond v s).cnt = s.cnt := rfl
@[simp] theorem respond_phase (v : Word) (s : State) : (respond v s).phase = s.phase := rfl
@[simp] theorem respond_res (v : Word) (s : State) : (respond v s).res = s.res := rfl
@[simp] theorem respond_ovf (v : Word) (s : State) : (respond v s).ovf = s.ovf := rfl
@[simp] theorem respond_err (v : Word) (s : State) : (respond v s).err = s.err := rfl
@[simp] theorem respond_errcode (v : Word) (s : State) : (respond v s).errcode = s.errcode := rfl
@[simp] theorem respond_pbuf (v : Word) (s : State) : (respond v s).pbuf = s.pbuf := rfl
@[simp] theorem respond_port (v : Word) (s : State) : (respond v s).port = s.port := rfl
@[simp] theorem respond_responses (v : Word) (s : State) : (respond v s).responses = s.responses ++ [⟨v, false⟩] := rfl
@[simp] theorem respond_resets (v : Word) (s : State) : (respond v s).resets = s.resets := rfl

@[simp] theorem accept_crc (s : State) : (accept s).crc = s.crc := rfl
@[simp] theorem accept_sum (s : State) : (accept s).sum = s.sum := rfl
@[simp] theorem accept_mode (s : State) : (accept s).mode = s.mode := rfl
@[simp] theorem accept_blk (s : State) : (accept s).blk = s.blk := rfl
@[simp] theorem accept_cmp (s : State) : (accept s).cmp = s.cmp := rfl
@[simp] theorem accept_trl (s : State) : (accept s).trl = s.trl := rfl
@[simp] theorem accept_cnt (s : State) : (accept s).cnt = s.cnt := rfl
@[simp] theorem accept_phase (s : State) : (accept s).phase = s.phase := rfl
@[simp] theorem accept_res (s : State) : (accept s).res = s.res := rfl
@[simp] theorem accept_ovf (s : State) : (accept s).ovf = s.ovf := rfl
@[simp] theorem accept_err (s : State) : (accept s).err = s.err := rfl
@[simp] theorem accept_errcode (s : State) : (accept s).errcode = s.errcode := rfl
@[simp] theorem accept_pbuf (s : State) : (accept s).pbuf = s.pbuf := rfl
@[simp] theorem accept_port (s : State) : (accept s).port = s.port := rfl
@[simp] theorem accept_responses (s : State) : (accept s).responses = s.responses ++ [⟨0x0000#16, false⟩] := rfl
@[simp] theorem accept_resets (s : State) : (accept s).resets = s.resets := rfl

@[simp] theorem raiseRefusal_crc (c : Cause) (s : State) : (raiseRefusal c s).crc = s.crc := rfl
@[simp] theorem raiseRefusal_sum (c : Cause) (s : State) : (raiseRefusal c s).sum = s.sum := rfl
@[simp] theorem raiseRefusal_mode (c : Cause) (s : State) : (raiseRefusal c s).mode = s.mode := rfl
@[simp] theorem raiseRefusal_blk (c : Cause) (s : State) : (raiseRefusal c s).blk = s.blk := rfl
@[simp] theorem raiseRefusal_cmp (c : Cause) (s : State) : (raiseRefusal c s).cmp = s.cmp := rfl
@[simp] theorem raiseRefusal_trl (c : Cause) (s : State) : (raiseRefusal c s).trl = s.trl := rfl
@[simp] theorem raiseRefusal_cnt (c : Cause) (s : State) : (raiseRefusal c s).cnt = s.cnt := rfl
@[simp] theorem raiseRefusal_phase (c : Cause) (s : State) : (raiseRefusal c s).phase = s.phase := rfl
@[simp] theorem raiseRefusal_res (c : Cause) (s : State) : (raiseRefusal c s).res = s.res := rfl
@[simp] theorem raiseRefusal_ovf (c : Cause) (s : State) : (raiseRefusal c s).ovf = s.ovf := rfl
@[simp] theorem raiseRefusal_err (c : Cause) (s : State) : (raiseRefusal c s).err = true := rfl
@[simp] theorem raiseRefusal_errcode (c : Cause) (s : State) : (raiseRefusal c s).errcode = errcodeAfter s.err s.errcode c := rfl
@[simp] theorem raiseRefusal_pbuf (c : Cause) (s : State) : (raiseRefusal c s).pbuf = s.pbuf := rfl
@[simp] theorem raiseRefusal_port (c : Cause) (s : State) : (raiseRefusal c s).port = s.port := rfl
@[simp] theorem raiseRefusal_responses (c : Cause) (s : State) : (raiseRefusal c s).responses = s.responses ++ [⟨c.code.setWidth 16, true⟩] := rfl
@[simp] theorem raiseRefusal_resets (c : Cause) (s : State) : (raiseRefusal c s).resets = s.resets := rfl

@[simp] theorem storeBuf_crc (a : Addr) (b : Byte) (s : State) : (storeBuf a b s).crc = s.crc := rfl
@[simp] theorem storeBuf_sum (a : Addr) (b : Byte) (s : State) : (storeBuf a b s).sum = s.sum := rfl
@[simp] theorem storeBuf_mode (a : Addr) (b : Byte) (s : State) : (storeBuf a b s).mode = s.mode := rfl
@[simp] theorem storeBuf_blk (a : Addr) (b : Byte) (s : State) : (storeBuf a b s).blk = s.blk := rfl
@[simp] theorem storeBuf_cmp (a : Addr) (b : Byte) (s : State) : (storeBuf a b s).cmp = s.cmp := rfl
@[simp] theorem storeBuf_trl (a : Addr) (b : Byte) (s : State) : (storeBuf a b s).trl = s.trl := rfl
@[simp] theorem storeBuf_cnt (a : Addr) (b : Byte) (s : State) : (storeBuf a b s).cnt = s.cnt := rfl
@[simp] theorem storeBuf_phase (a : Addr) (b : Byte) (s : State) : (storeBuf a b s).phase = s.phase := rfl
@[simp] theorem storeBuf_res (a : Addr) (b : Byte) (s : State) : (storeBuf a b s).res = s.res := rfl
@[simp] theorem storeBuf_ovf (a : Addr) (b : Byte) (s : State) : (storeBuf a b s).ovf = s.ovf := rfl
@[simp] theorem storeBuf_err (a : Addr) (b : Byte) (s : State) : (storeBuf a b s).err = s.err := rfl
@[simp] theorem storeBuf_errcode (a : Addr) (b : Byte) (s : State) : (storeBuf a b s).errcode = s.errcode := rfl
@[simp] theorem storeBuf_pbuf (a : Addr) (b : Byte) (s : State) : (storeBuf a b s).pbuf = Memory.write s.pbuf a.toNat b := rfl
@[simp] theorem storeBuf_port (a : Addr) (b : Byte) (s : State) : (storeBuf a b s).port = s.port := rfl
@[simp] theorem storeBuf_responses (a : Addr) (b : Byte) (s : State) : (storeBuf a b s).responses = s.responses := rfl
@[simp] theorem storeBuf_resets (a : Addr) (b : Byte) (s : State) : (storeBuf a b s).resets = s.resets := rfl

@[simp] theorem feed_crc (b : Byte) (s : State) : (feed b s).crc = crcUpdate s.crc b := rfl
@[simp] theorem feed_sum (b : Byte) (s : State) : (feed b s).sum = s.sum + b := rfl
@[simp] theorem feed_mode (b : Byte) (s : State) : (feed b s).mode = s.mode := rfl
@[simp] theorem feed_blk (b : Byte) (s : State) : (feed b s).blk = s.blk := rfl
@[simp] theorem feed_cmp (b : Byte) (s : State) : (feed b s).cmp = s.cmp := rfl
@[simp] theorem feed_trl (b : Byte) (s : State) : (feed b s).trl = s.trl := rfl
@[simp] theorem feed_cnt (b : Byte) (s : State) : (feed b s).cnt = s.cnt := rfl
@[simp] theorem feed_phase (b : Byte) (s : State) : (feed b s).phase = s.phase := rfl
@[simp] theorem feed_res (b : Byte) (s : State) : (feed b s).res = s.res := rfl
@[simp] theorem feed_ovf (b : Byte) (s : State) : (feed b s).ovf = s.ovf := rfl
@[simp] theorem feed_err (b : Byte) (s : State) : (feed b s).err = s.err := rfl
@[simp] theorem feed_errcode (b : Byte) (s : State) : (feed b s).errcode = s.errcode := rfl
@[simp] theorem feed_pbuf (b : Byte) (s : State) : (feed b s).pbuf = s.pbuf := rfl
@[simp] theorem feed_port (b : Byte) (s : State) : (feed b s).port = s.port := rfl
@[simp] theorem feed_responses (b : Byte) (s : State) : (feed b s).responses = s.responses := rfl
@[simp] theorem feed_resets (b : Byte) (s : State) : (feed b s).resets = s.resets := rfl

@[simp] theorem fillByte_crc (b : Byte) (s : State) : (fillByte b s).crc = crcUpdate s.crc b := rfl
@[simp] theorem fillByte_sum (b : Byte) (s : State) : (fillByte b s).sum = s.sum + b := rfl
@[simp] theorem fillByte_mode (b : Byte) (s : State) : (fillByte b s).mode = s.mode := rfl
@[simp] theorem fillByte_blk (b : Byte) (s : State) : (fillByte b s).blk = s.blk := rfl
@[simp] theorem fillByte_cmp (b : Byte) (s : State) : (fillByte b s).cmp = s.cmp := rfl
@[simp] theorem fillByte_trl (b : Byte) (s : State) : (fillByte b s).trl = s.trl := rfl
@[simp] theorem fillByte_cnt (b : Byte) (s : State) : (fillByte b s).cnt = s.cnt + 1 := rfl
@[simp] theorem fillByte_phase (b : Byte) (s : State) : (fillByte b s).phase = s.phase := rfl
@[simp] theorem fillByte_res (b : Byte) (s : State) : (fillByte b s).res = s.res := rfl
@[simp] theorem fillByte_ovf (b : Byte) (s : State) : (fillByte b s).ovf = s.ovf := rfl
@[simp] theorem fillByte_err (b : Byte) (s : State) : (fillByte b s).err = s.err := rfl
@[simp] theorem fillByte_errcode (b : Byte) (s : State) : (fillByte b s).errcode = s.errcode := rfl
@[simp] theorem fillByte_pbuf (b : Byte) (s : State) : (fillByte b s).pbuf = Memory.write s.pbuf (fillAddr s.cnt).toNat b := rfl
@[simp] theorem fillByte_port (b : Byte) (s : State) : (fillByte b s).port = s.port := rfl
@[simp] theorem fillByte_responses (b : Byte) (s : State) : (fillByte b s).responses = s.responses := rfl
@[simp] theorem fillByte_resets (b : Byte) (s : State) : (fillByte b s).resets = s.resets := rfl

@[simp] theorem resetBlock_crc (s : State) : (resetBlock s).crc = 0x0000#16 := rfl
@[simp] theorem resetBlock_sum (s : State) : (resetBlock s).sum = 0x00#8 := rfl
@[simp] theorem resetBlock_mode (s : State) : (resetBlock s).mode = .checksum := rfl
@[simp] theorem resetBlock_blk (s : State) : (resetBlock s).blk = 0x00#8 := rfl
@[simp] theorem resetBlock_cmp (s : State) : (resetBlock s).cmp = 0x00#8 := rfl
@[simp] theorem resetBlock_trl (s : State) : (resetBlock s).trl = 0x0000#16 := rfl
@[simp] theorem resetBlock_cnt (s : State) : (resetBlock s).cnt = 0x00#8 := rfl
@[simp] theorem resetBlock_phase (s : State) : (resetBlock s).phase = .idle := rfl
@[simp] theorem resetBlock_res (s : State) : (resetBlock s).res = .none := rfl
@[simp] theorem resetBlock_ovf (s : State) : (resetBlock s).ovf = false := rfl
@[simp] theorem resetBlock_err (s : State) : (resetBlock s).err = false := rfl
@[simp] theorem resetBlock_errcode (s : State) : (resetBlock s).errcode = Option.none := rfl
@[simp] theorem resetBlock_pbuf (s : State) : (resetBlock s).pbuf = [] := rfl
@[simp] theorem resetBlock_port (s : State) : (resetBlock s).port = s.port := rfl
@[simp] theorem resetBlock_responses (s : State) : (resetBlock s).responses = s.responses := rfl
@[simp] theorem resetBlock_resets (s : State) : (resetBlock s).resets = s.resets + 1 := rfl

/-! The loop of ENC_END writes CRC, SUM and PBUF only. -/

@[simp] theorem padFrom_mode (n : Nat) : ∀ (i : Nat) (s : State), (padFrom i n s).mode = s.mode := by
  induction n with
  | zero => intro i s; rfl
  | succ n ih => intro i s; simp [padFrom, ih]
@[simp] theorem padFrom_blk (n : Nat) : ∀ (i : Nat) (s : State), (padFrom i n s).blk = s.blk := by
  induction n with
  | zero => intro i s; rfl
  | succ n ih => intro i s; simp [padFrom, ih]
@[simp] theorem padFrom_cmp (n : Nat) : ∀ (i : Nat) (s : State), (padFrom i n s).cmp = s.cmp := by
  induction n with
  | zero => intro i s; rfl
  | succ n ih => intro i s; simp [padFrom, ih]
@[simp] theorem padFrom_trl (n : Nat) : ∀ (i : Nat) (s : State), (padFrom i n s).trl = s.trl := by
  induction n with
  | zero => intro i s; rfl
  | succ n ih => intro i s; simp [padFrom, ih]
@[simp] theorem padFrom_cnt (n : Nat) : ∀ (i : Nat) (s : State), (padFrom i n s).cnt = s.cnt := by
  induction n with
  | zero => intro i s; rfl
  | succ n ih => intro i s; simp [padFrom, ih]
@[simp] theorem padFrom_phase (n : Nat) : ∀ (i : Nat) (s : State), (padFrom i n s).phase = s.phase := by
  induction n with
  | zero => intro i s; rfl
  | succ n ih => intro i s; simp [padFrom, ih]
@[simp] theorem padFrom_res (n : Nat) : ∀ (i : Nat) (s : State), (padFrom i n s).res = s.res := by
  induction n with
  | zero => intro i s; rfl
  | succ n ih => intro i s; simp [padFrom, ih]
@[simp] theorem padFrom_ovf (n : Nat) : ∀ (i : Nat) (s : State), (padFrom i n s).ovf = s.ovf := by
  induction n with
  | zero => intro i s; rfl
  | succ n ih => intro i s; simp [padFrom, ih]
@[simp] theorem padFrom_err (n : Nat) : ∀ (i : Nat) (s : State), (padFrom i n s).err = s.err := by
  induction n with
  | zero => intro i s; rfl
  | succ n ih => intro i s; simp [padFrom, ih]
@[simp] theorem padFrom_errcode (n : Nat) : ∀ (i : Nat) (s : State), (padFrom i n s).errcode = s.errcode := by
  induction n with
  | zero => intro i s; rfl
  | succ n ih => intro i s; simp [padFrom, ih]
@[simp] theorem padFrom_port (n : Nat) : ∀ (i : Nat) (s : State), (padFrom i n s).port = s.port := by
  induction n with
  | zero => intro i s; rfl
  | succ n ih => intro i s; simp [padFrom, ih]
@[simp] theorem padFrom_responses (n : Nat) : ∀ (i : Nat) (s : State), (padFrom i n s).responses = s.responses := by
  induction n with
  | zero => intro i s; rfl
  | succ n ih => intro i s; simp [padFrom, ih]
@[simp] theorem padFrom_resets (n : Nat) : ∀ (i : Nat) (s : State), (padFrom i n s).resets = s.resets := by
  induction n with
  | zero => intro i s; rfl
  | succ n ih => intro i s; simp [padFrom, ih]

/-! Reading a byte of PBUF looks at PBUF and the reset counter only. -/

theorem readBuf_congr {s t : State} (hp : t.pbuf = s.pbuf) (hr : t.resets = s.resets) (a : Addr) :
    t.readBuf a = s.readBuf a := by
  simp [State.readBuf, State.unwritten, hp, hr]

@[simp] theorem readBuf_respond (v : Word) (s : State) (a : Addr) : (respond v s).readBuf a = s.readBuf a := rfl
@[simp] theorem readBuf_accept (s : State) (a : Addr) : (accept s).readBuf a = s.readBuf a := rfl
@[simp] theorem readBuf_raiseRefusal (c : Cause) (s : State) (a : Addr) :
    (raiseRefusal c s).readBuf a = s.readBuf a := rfl
@[simp] theorem readBuf_feed (b : Byte) (s : State) (a : Addr) : (feed b s).readBuf a = s.readBuf a := rfl

end Sys2Proof.Machine
end

