-- ==== Sys2Proof/Laws/Memory.lean ====
section
/-! SUPPORT. The laws of the payload buffer: read after write, and every operation keeps the canonical form. -/

namespace Sys2Proof.Machine

theorem get?_write_same (m : Memory) (a : Nat) (b : Byte) : Memory.get? (Memory.write m a b) a = some b := by
  induction m with
  | nil => simp [Memory.write, Memory.get?]
  | cons c m ih =>
    obtain ⟨x, v⟩ := c
    simp only [Memory.write]
    split
    · simp [Memory.get?]
    · split
      · simp [Memory.get?]
      · rename_i hne
        simp [Memory.get?, ih, Ne.symm hne]

theorem get?_write_other (m : Memory) {a a' : Nat} (b : Byte) (h : a' ≠ a) :
    Memory.get? (Memory.write m a b) a' = Memory.get? m a' := by
  induction m with
  | nil => simp [Memory.write, Memory.get?, Ne.symm h]
  | cons c m ih =>
    obtain ⟨x, v⟩ := c
    simp only [Memory.write]
    split
    · simp [Memory.get?, Ne.symm h]
    · split
      · rename_i _ hax
        subst hax
        simp [Memory.get?, Ne.symm h]
      · simp only [Memory.get?, ih]

theorem risingFrom_write (m : Memory) (a : Nat) (b : Byte) :
    ∀ lo, lo ≤ a → Memory.risingFrom lo m = true → Memory.risingFrom lo (Memory.write m a b) = true := by
  induction m with
  | nil => intro lo h _; simp [Memory.write, Memory.risingFrom, h]
  | cons c m ih =>
    intro lo h hm
    obtain ⟨x, v⟩ := c
    simp only [Memory.risingFrom, Bool.and_eq_true, decide_eq_true_eq] at hm
    simp only [Memory.write]
    split
    · rename_i hax
      simp only [Memory.risingFrom, Bool.and_eq_true, decide_eq_true_eq]
      exact ⟨h, hax, hm.2⟩
    · split
      · rename_i _ hax
        subst hax
        simp only [Memory.risingFrom, Bool.and_eq_true, decide_eq_true_eq]
        exact ⟨h, hm.2⟩
      · rename_i h1 h2
        simp only [Memory.risingFrom, Bool.and_eq_true, decide_eq_true_eq]
        exact ⟨hm.1, ih (x + 1) (by omega) hm.2⟩

theorem all_write (m : Memory) (a : Nat) (b : Byte) (p : Host.Cell → Bool) (hp : p (a, b) = true) (hm : m.all p = true) :
    (Memory.write m a b).all p = true := by
  induction m with
  | nil => simp [Memory.write, hp]
  | cons c m ih =>
    obtain ⟨x, v⟩ := c
    simp only [List.all_cons, Bool.and_eq_true] at hm
    simp only [Memory.write]
    split
    · simp only [List.all_cons, Bool.and_eq_true]; exact ⟨hp, hm.1, hm.2⟩
    · split
      · simp only [List.all_cons, Bool.and_eq_true]; exact ⟨hp, hm.2⟩
      · simp only [List.all_cons, Bool.and_eq_true]; exact ⟨hm.1, ih hm.2⟩

/-- A write inside 0 to 127 keeps the canonical form. -/
theorem wf_write (m : Memory) (a : Nat) (b : Byte) (ha : a < 128) (hm : Memory.wf m = true) :
    Memory.wf (Memory.write m a b) = true := by
  simp only [Memory.wf, Bool.and_eq_true] at hm ⊢
  exact ⟨risingFrom_write m a b 0 (Nat.zero_le a) hm.1, all_write m a b _ (by simpa using ha) hm.2⟩

/-- Below its first address a rising memory lists nothing. -/
theorem get?_below (m : Memory) : ∀ lo, Memory.risingFrom lo m = true → ∀ a, a < lo → Memory.get? m a = none := by
  induction m with
  | nil => intro lo _ a _; rfl
  | cons c m ih =>
    intro lo h a ha
    obtain ⟨x, v⟩ := c
    simp only [Memory.risingFrom, Bool.and_eq_true, decide_eq_true_eq] at h
    have hx : x ≠ a := by omega
    simp only [Memory.get?, hx, if_false]
    exact ih (x + 1) h.2 a (by omega)

/-- Two rising memories that read alike are the same list: equal memories are equal data. -/
theorem rising_ext (m : Memory) : ∀ (m' : Memory) (lo : Nat), Memory.risingFrom lo m = true →
    Memory.risingFrom lo m' = true → (∀ a, Memory.get? m a = Memory.get? m' a) → m = m' := by
  induction m with
  | nil =>
    intro m' lo _ h' e
    cases m' with
    | nil => rfl
    | cons c m' => obtain ⟨x, v⟩ := c; have := e x; simp [Memory.get?] at this
  | cons c m ih =>
    intro m' lo h h' e
    obtain ⟨x, v⟩ := c
    cases m' with
    | nil => have := e x; simp [Memory.get?] at this
    | cons c' m' =>
      obtain ⟨y, w⟩ := c'
      simp only [Memory.risingFrom, Bool.and_eq_true, decide_eq_true_eq] at h h'
      have hxy : x = y := by
        rcases Nat.lt_trichotomy x y with hlt | heq | hgt
        · have h1 := e x
          have h2 := get?_below m' (y + 1) h'.2 x (by omega)
          simp [Memory.get?, h2, Nat.ne_of_gt hlt] at h1
        · exact heq
        · have h1 := e y
          have h2 := get?_below m (x + 1) h.2 y (by omega)
          simp [Memory.get?, h2, Nat.ne_of_gt hgt] at h1
      subst hxy
      have hv : v = w := by have := e x; simpa [Memory.get?] using this
      subst hv
      have hrest : m = m' := by
        refine ih m' (x + 1) h.2 h'.2 fun a => ?_
        by_cases hax : x = a
        · subst hax
          rw [get?_below m (x + 1) h.2 x (by omega), get?_below m' (x + 1) h'.2 x (by omega)]
        · have := e a
          simpa [Memory.get?, hax] using this
      rw [hrest]

theorem wf_ext {m m' : Memory} (h : Memory.wf m = true) (h' : Memory.wf m' = true)
    (e : ∀ a, Memory.get? m a = Memory.get? m' a) : m = m' := by
  simp only [Memory.wf, Bool.and_eq_true] at h h'
  exact rising_ext m m' 0 h.1 h'.1 e

theorem bufAddr_toNat {i : Nat} (h : i < 128) : (bufAddr i).toNat = i := by
  simp only [bufAddr, BitVec.toNat_ofNat]
  omega

theorem bufAddr_inj {i j : Nat} (hi : i < 128) (hj : j < 128) (h : bufAddr i = bufAddr j) : i = j := by
  rw [← bufAddr_toNat hi, ← bufAddr_toNat hj, h]

theorem bufAddr_of_toNat (a : Addr) : bufAddr a.toNat = a := by
  simp [bufAddr]

theorem addr_lt (a : Addr) : a.toNat < 128 := a.isLt

@[simp] theorem readBuf_storeBuf_same (a : Addr) (b : Byte) (s : State) : (storeBuf a b s).readBuf a = b := by
  simp [State.readBuf, get?_write_same]

theorem readBuf_storeBuf_other {a a' : Addr} (b : Byte) (s : State) (h : a' ≠ a) :
    (storeBuf a b s).readBuf a' = s.readBuf a' := by
  have hn : a'.toNat ≠ a.toNat := fun e => h (BitVec.eq_of_toNat_eq e)
  simp [State.readBuf, State.unwritten, get?_write_other s.pbuf b hn]

/-- Storing keeps the canonical form. -/
theorem wf_storeBuf (a : Addr) (b : Byte) (s : State) (h : Memory.wf s.pbuf = true) :
    Memory.wf (storeBuf a b s).pbuf = true := wf_write s.pbuf a.toNat b (addr_lt a) h

/-- The loop of ENC_END keeps the canonical form. -/
theorem wf_padFrom (n : Nat) : ∀ (i : Nat) (s : State), Memory.wf s.pbuf = true → Memory.wf (padFrom i n s).pbuf = true := by
  induction n with
  | zero => intro i s h; exact h
  | succ n ih => intro i s h; exact ih (i + 1) _ (wf_storeBuf (bufAddr i) Config.pad s h)

end Sys2Proof.Machine
end

