-- ==== Sys2Proof/Laws/Ops.lean ====
section
/-! SUPPORT. One lemma a shared operation: everything it can do. -/

namespace Sys2Proof.Machine

/-- `inPhase` in the phase it asks for. -/
theorem inPhase_here {p : Phase} {s t : State} (h : s.phase = p) : inPhase p s t = .next t := by
  simp [inPhase, h]

/-- `inPhase` in another phase. -/
theorem inPhase_elsewhere {p : Phase} {s t : State} (h : s.phase ≠ p) :
    inPhase p s t = .next (raiseRefusal .wrongPhase s) := by
  simp [inPhase, h]

/-- Everything `inPhase` can answer. -/
theorem inPhase_cases {p : Phase} {s t u : State} (h : inPhase p s t = .next u) :
    (s.phase = p ∧ u = t) ∨ (s.phase ≠ p ∧ u = raiseRefusal .wrongPhase s) := by
  by_cases hp : s.phase = p
  · rw [inPhase_here hp] at h; cases h; exact .inl ⟨hp, rfl⟩
  · rw [inPhase_elsewhere hp] at h; cases h; exact .inr ⟨hp, rfl⟩

/-- Everything taking an event can answer. -/
theorem takeEvent_cases (s : State) :
    (s.port = [] ∧ takeEvent s = none) ∨
    ∃ e rest, s.port = e :: rest ∧ takeEvent s = some (e, { s with port := rest }) := by
  unfold takeEvent
  cases h : s.port with
  | nil => exact .inl ⟨rfl, rfl⟩
  | cons e rest => exact .inr ⟨e, rest, rfl, rfl⟩

/-- Everything one step can do: a reset, an executed command, or a refused word. -/
theorem step_next_cases {s t : State} (h : step s = .next t) :
    ∃ e rest, s.port = e :: rest ∧
      ((e = .reset ∧ t = resetBlock { s with port := rest }) ∨
       (∃ w i, e = .command w ∧ decode w = .instr i ∧ exec i { s with port := rest } = .next t) ∨
       (∃ w, e = .command w ∧ decode w = .illegalOpcode ∧ t = raiseRefusal .illegalOpcode { s with port := rest }) ∨
       (∃ w, e = .command w ∧ decode w = .badArg ∧ t = raiseRefusal .badArg { s with port := rest })) := by
  rcases takeEvent_cases s with ⟨_, hn⟩ | ⟨e, rest, hp, ht⟩
  · rw [step, hn] at h; cases h
  · refine ⟨e, rest, hp, ?_⟩
    rw [step, ht] at h
    cases e with
    | reset => exact .inl ⟨rfl, by cases h; rfl⟩
    | command w =>
      refine .inr ?_
      cases hd : decode w with
      | instr i => exact .inl ⟨w, i, rfl, hd, by simpa [hd] using h⟩
      | illegalOpcode => exact .inr (.inl ⟨w, rfl, hd, by simp only [hd, refuseOpcode] at h; cases h; rfl⟩)
      | badArg => exact .inr (.inr ⟨w, rfl, hd, by simp only [hd, refuseArg] at h; cases h; rfl⟩)

/-- The free value of an unwritten byte is read only where no byte is listed. -/
theorem readBuf_of_get? {s : State} {a : Addr} {b : Byte} (h : Memory.get? s.pbuf a.toNat = some b) :
    s.readBuf a = b := by
  simp [State.readBuf, h]

/-! The folds behind the accumulators. -/

@[simp] theorem crc16_nil : crc16 [] = 0x0000#16 := rfl
@[simp] theorem checksum8_nil : checksum8 [] = 0x00#8 := rfl

theorem crc16_snoc (d : List Byte) (b : Byte) : crc16 (d ++ [b]) = crcUpdate (crc16 d) b := by
  simp [crc16]

theorem checksum8_snoc (d : List Byte) (b : Byte) : checksum8 (d ++ [b]) = checksum8 d + b := by
  simp [checksum8]

theorem padTo128_length {p : List Byte} (h : p.length ≤ 128) : (padTo128 p).length = 128 := by
  simp [padTo128, Config.payloadLen]; omega

@[simp] theorem trailer_length (m : Mode) (q : List Byte) : (trailer m q).length = Config.trailerLen m := by
  cases m <;> rfl

theorem encodeFrame_length (m : Mode) (n : Byte) {p : List Byte} (h : p.length ≤ 128) :
    (encodeFrame m n p).length = Config.frameLen m := by
  simp [encodeFrame, padTo128_length h, Config.frameLen, Config.payloadLen]
  omega

/-! The payload loaded so far. -/

@[simp] theorem payload_zero (s : State) : s.payload 0 = [] := rfl

theorem payload_succ (s : State) (k : Nat) : s.payload (k + 1) = s.payload k ++ [s.readBuf (bufAddr k)] := by
  simp [State.payload, List.range_succ]

/-- Two states that read alike below `k` have the same first `k` payload bytes. -/
theorem payload_congr {s t : State} {k : Nat} (h : ∀ i, i < k → t.readBuf (bufAddr i) = s.readBuf (bufAddr i)) :
    t.payload k = s.payload k := by
  simp only [State.payload]
  exact List.map_congr_left fun i hi => h i (List.mem_range.mp hi)

/-- Storing byte number `k` extends the first `k` payload bytes by it. -/
theorem payload_storeBuf (s : State) {k : Nat} (hk : k < 128) (b : Byte) :
    (storeBuf (bufAddr k) b s).payload (k + 1) = s.payload k ++ [b] := by
  rw [payload_succ, readBuf_storeBuf_same]
  congr 1
  refine payload_congr fun i hi => readBuf_storeBuf_other b s fun e => ?_
  have := bufAddr_inj (by omega) hk e
  omega

/-- The fields of a command word, put together and taken apart. -/
@[simp] theorem opField_cmdWord (op arg : Byte) : opField (cmdWord op arg) = op := by
  apply BitVec.eq_of_getLsbD_eq
  intro i hi
  simp only [opField, cmdWord, BitVec.getLsbD_extractLsb', BitVec.getLsbD_append]
  simp [hi]

@[simp] theorem argField_cmdWord (op arg : Byte) : argField (cmdWord op arg) = arg := by
  apply BitVec.eq_of_getLsbD_eq
  intro i hi
  simp only [argField, cmdWord, BitVec.getLsbD_extractLsb', BitVec.getLsbD_append]
  simp [hi]

end Sys2Proof.Machine
end

