-- ==== Sys2Proof/Laws/PerInstr.lean ====
section
/-! SUPPORT. Per-instruction law: the encoded word of every command matches its own row of the opcode table
(30_encoding R72: "(W AND mask) = match"). -/

namespace Sys2Proof.Laws

/-- The mnemonic of a command in opcode_table.json. -/
def mnemonicOf : Instr → String
  | .nop => "NOP"
  | .abort => "ABORT"
  | .errClr => "ERR_CLR"
  | .setMode _ => "SET_MODE"
  | .statusRd => "STATUS_RD"
  | .bufRd _ => "BUF_RD"
  | .sumClr => "SUM_CLR"
  | .sumByte _ => "SUM_BYTE"
  | .sumRd => "SUM_RD"
  | .crcClr => "CRC_CLR"
  | .crcByte _ => "CRC_BYTE"
  | .crcRd => "CRC_RD"
  | .encStart _ => "ENC_START"
  | .encData _ => "ENC_DATA"
  | .encEnd => "ENC_END"
  | .encPop => "ENC_POP"
  | .decStart => "DEC_START"
  | .decData _ => "DEC_DATA"
  | .decEnd => "DEC_END"
  | .decBlkRd => "DEC_BLK_RD"

/-- The word of a command matches the row of the table that bears its mnemonic. -/
def TableRow.Statement (i : Instr) : Prop :=
  ∃ r ∈ opcodeTable, r.mnemonic = mnemonicOf i ∧ r.matches (encode i) = true

theorem TableRow.nop : TableRow.Statement .nop :=
  ⟨⟨"NOP", 0x00#8, .n⟩, by decide, rfl, by decide⟩
theorem TableRow.abort : TableRow.Statement .abort :=
  ⟨⟨"ABORT", 0x01#8, .n⟩, by decide, rfl, by decide⟩
theorem TableRow.errClr : TableRow.Statement .errClr :=
  ⟨⟨"ERR_CLR", 0x02#8, .n⟩, by decide, rfl, by decide⟩
theorem TableRow.setMode (m : Mode) : TableRow.Statement (.setMode m) :=
  ⟨⟨"SET_MODE", 0x03#8, .m⟩, by decide, rfl, by cases m <;> decide⟩
theorem TableRow.statusRd : TableRow.Statement .statusRd :=
  ⟨⟨"STATUS_RD", 0x04#8, .n⟩, by decide, rfl, by decide⟩
theorem TableRow.bufRd (a : Addr) : TableRow.Statement (.bufRd a) :=
  ⟨⟨"BUF_RD", 0x05#8, .a⟩, by decide, rfl, by revert a; decide⟩
theorem TableRow.sumClr : TableRow.Statement .sumClr :=
  ⟨⟨"SUM_CLR", 0x10#8, .n⟩, by decide, rfl, by decide⟩
theorem TableRow.sumByte (b : Byte) : TableRow.Statement (.sumByte b) :=
  ⟨⟨"SUM_BYTE", 0x11#8, .b⟩, by decide, rfl, by revert b; decide⟩
theorem TableRow.sumRd : TableRow.Statement .sumRd :=
  ⟨⟨"SUM_RD", 0x12#8, .n⟩, by decide, rfl, by decide⟩
theorem TableRow.crcClr : TableRow.Statement .crcClr :=
  ⟨⟨"CRC_CLR", 0x20#8, .n⟩, by decide, rfl, by decide⟩
theorem TableRow.crcByte (b : Byte) : TableRow.Statement (.crcByte b) :=
  ⟨⟨"CRC_BYTE", 0x21#8, .b⟩, by decide, rfl, by revert b; decide⟩
theorem TableRow.crcRd : TableRow.Statement .crcRd :=
  ⟨⟨"CRC_RD", 0x22#8, .n⟩, by decide, rfl, by decide⟩
theorem TableRow.encStart (n : Byte) : TableRow.Statement (.encStart n) :=
  ⟨⟨"ENC_START", 0x30#8, .b⟩, by decide, rfl, by revert n; decide⟩
theorem TableRow.encData (b : Byte) : TableRow.Statement (.encData b) :=
  ⟨⟨"ENC_DATA", 0x31#8, .b⟩, by decide, rfl, by revert b; decide⟩
theorem TableRow.encEnd : TableRow.Statement .encEnd :=
  ⟨⟨"ENC_END", 0x32#8, .n⟩, by decide, rfl, by decide⟩
theorem TableRow.encPop : TableRow.Statement .encPop :=
  ⟨⟨"ENC_POP", 0x33#8, .n⟩, by decide, rfl, by decide⟩
theorem TableRow.decStart : TableRow.Statement .decStart :=
  ⟨⟨"DEC_START", 0x40#8, .n⟩, by decide, rfl, by decide⟩
theorem TableRow.decData (b : Byte) : TableRow.Statement (.decData b) :=
  ⟨⟨"DEC_DATA", 0x41#8, .b⟩, by decide, rfl, by revert b; decide⟩
theorem TableRow.decEnd : TableRow.Statement .decEnd :=
  ⟨⟨"DEC_END", 0x42#8, .n⟩, by decide, rfl, by decide⟩
theorem TableRow.decBlkRd : TableRow.Statement .decBlkRd :=
  ⟨⟨"DEC_BLK_RD", 0x43#8, .n⟩, by decide, rfl, by decide⟩

end Sys2Proof.Laws
end

