-- ==== Sys2Proof/Machine/Assembler.lean ====
section
/-! DEFINITION. The assembler syntax (30_encoding R86): one command a line, a mnemonic and at most one operand. -/

namespace Sys2Proof.Machine

/-- The value of one digit in a base. -/
def digitValue (base : Nat) (c : Char) : Option Nat :=
  let n := c.toNat
  let v := if 48 ≤ n ∧ n ≤ 57 then n - 48 else if 65 ≤ n ∧ n ≤ 70 then n - 55
    else if 97 ≤ n ∧ n ≤ 102 then n - 87 else base
  if v < base then some v else none

/-- A non-empty run of digits in a base. -/
def digitsValue (base : Nat) : List Char → Option Nat
  | [] => none
  | c :: cs => (c :: cs).foldl
      (fun acc d => acc.bind fun a => (digitValue base d).map fun v => a * base + v) (some 0)

/-- A decimal, `0x` hexadecimal or `0b` binary literal. -/
def literalValue : List Char → Option Nat
  | '0' :: 'x' :: ds => digitsValue 16 ds
  | '0' :: 'b' :: ds => digitsValue 2 ds
  | ds => digitsValue 10 ds

/-- The apostrophe. -/
def quote : Char := Char.ofNat 39

/-- A quoted ASCII character, format B only. -/
def quotedValue : List Char → Option Nat
  | [q, c, r] => if q = quote ∧ r = quote ∧ c.toNat < 128 then some c.toNat else none
  | _ => none

/-- The operand of a command in each format, as its ARG byte (30_encoding R73 to R76, R86). -/
def argOf : Format → List Char → Option Byte
  | .n, op => if op = [] then some 0x00#8 else none
  | .b, op => ((quotedValue op).or (literalValue op)).bind fun v => if v < 256 then some (BitVec.ofNat 8 v) else none
  | .a, op => (literalValue op).bind fun v => if v < 128 then some (BitVec.ofNat 8 v) else none
  | .m, op =>
    if op = ['C', 'H', 'E', 'C', 'K', 'S', 'U', 'M'] then some 0x00#8
    else if op = ['C', 'R', 'C', '1', '6'] then some 0x01#8
    else (literalValue op).bind fun v => if v < 2 then some (BitVec.ofNat 8 v) else none

/-- The line up to its comment: `;` starts a comment, except as a quoted character. -/
def uncomment : List Char → List Char
  | q :: c :: r :: cs => if q = quote ∧ r = quote then q :: c :: r :: uncomment cs
      else if q = ';' then [] else q :: uncomment (c :: r :: cs)
  | [c, d] => if c = ';' then [] else if d = ';' then [c] else [c, d]
  | [c] => if c = ';' then [] else [c]
  | [] => []

/-- A text without the spaces at its end. -/
def trimRight (cs : List Char) : List Char := (cs.reverse.dropWhile fun c => c = ' ').reverse

/-- A text without the spaces at its two ends. -/
def trim (cs : List Char) : List Char := trimRight (cs.dropWhile fun c => c = ' ')

/-- What one line of assembler text is. -/
inductive AsmLine where
  | empty
  | command (w : Word)
  | wrong
  deriving DecidableEq, Repr

/-- The command word of a mnemonic and an operand text. -/
def assemble (mnemonic operand : List Char) : AsmLine :=
  match opcodeTable.find? fun r => r.mnemonic.toList == mnemonic with
  | none => .wrong
  | some r =>
    match argOf r.format operand with
    | none => .wrong
    | some arg => .command (cmdWord r.op arg)

/-- One line of assembler text (30_encoding R86). -/
def assembleLine (line : List Char) : AsmLine :=
  match trim (uncomment line) with
  | [] => .empty
  | c :: cs => assemble ((c :: cs).takeWhile fun d => d ≠ ' ') (trim ((c :: cs).dropWhile fun d => d ≠ ' '))

end Sys2Proof.Machine
end

