-- ==== Sys2Proof/Tests/Slice0.lean ====
section
/-! SUPPORT. The model's own tests. Expected values are those of spec/95_test_vectors.md and the examples of the command
rules; each test takes one step on a small state. The witnesses show that the hypotheses of each obligation can be met. -/

namespace Sys2Proof.Tests

open Sys2Proof Sys2Proof.Machine

/-- The state after one step with the command word `w` presented, if the step answers one. -/
def after (w : Word) (s : State) : Option State :=
  match step (presentNext w s) with
  | .next t => some t
  | .fault _ => none
  | .refused _ => none

/-- The response to a command word, as (RDATA, RERR). -/
def answer (w : Word) (s : State) : Option (Word × Bool) :=
  (after w s).bind fun t => t.responses.getLast?.map fun r => (r.rdata, r.rerr)

/-- A state of a frame operation: phase, mode and CNT given. -/
def inOp (p : Phase) (m : Mode) (n : Byte) : State := { State.reset with phase := p, mode := m, cnt := n }

/-- A state with the three payload bytes "abc" in PBUF. -/
def abcState : State := { State.reset with pbuf := [(0, 0x61#8), (1, 0x62#8), (2, 0x63#8)] }

/-! ## WellFormed: one ill-formed word for each check (30_encoding R73, R75, R76, R79) -/

theorem test_wellFormed_refuses_reserved_opcode : wellFormedWord 0x0600#16 = false := by decide
theorem test_wellFormed_refuses_argument_of_format_n : wellFormedWord 0x3205#16 = false := by decide
theorem test_wellFormed_refuses_bit_7_of_format_a : wellFormedWord 0x0580#16 = false := by decide
theorem test_wellFormed_refuses_bits_7_1_of_format_m : wellFormedWord 0x0302#16 = false := by decide
theorem test_wellFormed_passes_one_of_each_format :
    (wellFormedWord 0x3200#16 && wellFormedWord 0x057F#16 && wellFormedWord 0x0301#16 && wellFormedWord 0x21A5#16) = true := by
  decide
theorem test_table_rows_do_not_overlap :
    (opcodeTable.map fun r => r.op).Nodup := by decide
theorem test_table_has_twenty_rows : opcodeTable.length = 20 := by decide

/-! ## Decode: every constructor, by a word written out from 30_encoding R72 -/

theorem test_decode_control :
    decode 0x0000#16 = .instr .nop ∧ decode 0x0100#16 = .instr .abort ∧ decode 0x0200#16 = .instr .errClr ∧
    decode 0x0300#16 = .instr (.setMode .checksum) ∧ decode 0x0301#16 = .instr (.setMode .crc16) ∧
    decode 0x0400#16 = .instr .statusRd ∧ decode 0x0500#16 = .instr (.bufRd 0#7) ∧
    decode 0b0000010101111111#16 = .instr (.bufRd 127#7) := by decide

theorem test_decode_units :
    decode 0x1000#16 = .instr .sumClr ∧ decode 0b0001000100100000#16 = .instr (.sumByte 0x20#8) ∧
    decode 0x1200#16 = .instr .sumRd ∧ decode 0x2000#16 = .instr .crcClr ∧
    decode 0b0010000100110001#16 = .instr (.crcByte 0x31#8) ∧ decode 0x2200#16 = .instr .crcRd := by decide

theorem test_decode_encoder :
    decode 0b0011000000000001#16 = .instr (.encStart 1#8) ∧ decode 0x3161#16 = .instr (.encData 0x61#8) ∧
    decode 0x3200#16 = .instr .encEnd ∧ decode 0x3300#16 = .instr .encPop := by decide

theorem test_decode_decoder :
    decode 0x4000#16 = .instr .decStart ∧ decode 0b0100000111111101#16 = .instr (.decData 0xFD#8) ∧
    decode 0x4200#16 = .instr .decEnd ∧ decode 0x4300#16 = .instr .decBlkRd := by decide

/-- The edges of the reserved ranges of 30_encoding R79. -/
theorem test_decode_reserved_edges :
    decode 0x0600#16 = .illegalOpcode ∧ decode 0x0FFF#16 = .illegalOpcode ∧ decode 0x1300#16 = .illegalOpcode ∧
    decode 0x1FFF#16 = .illegalOpcode ∧ decode 0x2300#16 = .illegalOpcode ∧ decode 0x2F00#16 = .illegalOpcode ∧
    decode 0x3400#16 = .illegalOpcode ∧ decode 0x3F01#16 = .illegalOpcode ∧ decode 0x4400#16 = .illegalOpcode ∧
    decode 0xFFFF#16 = .illegalOpcode := by decide

theorem test_decode_bad_arguments :
    decode 0x0001#16 = .badArg ∧ decode 0x00FF#16 = .badArg ∧ decode 0x03FF#16 = .badArg ∧ decode 0x05FF#16 = .badArg ∧
    decode 0x1001#16 = .badArg ∧ decode 0x2201#16 = .badArg ∧ decode 0x4301#16 = .badArg := by decide

theorem test_encode_examples :
    encode (.crcByte 0x31#8) = 0x2131#16 ∧ encode (.setMode .crc16) = 0x0301#16 ∧ encode (.bufRd 127#7) = 0x057F#16 ∧
    encode .encEnd = 0x3200#16 := by decide

theorem test_decodeTableWord_enc_start : decodeTableWord 16 0x3001 = some (.encStart 1#8) := by decide

/-! ## One step of each command -/

theorem test_nop : answer 0x0000#16 State.reset = some (0x0000#16, false) := by decide
theorem test_withFetchWord_runs_at_reset :
    step (State.reset.withFetchWord 16 0x1120) = exec (.sumByte 0x20#8) State.reset := by rfl
theorem test_abort : (after 0x0100#16 (inOp .encOut .checksum 57#8)).map (fun t => (t.phase, t.cnt)) = some (.idle, 57#8) := by
  decide
theorem test_errClr :
    (after 0x0200#16 { State.reset with err := true, errcode := some .wrongPhase }).map (fun t => (t.err, t.errcode)) =
      some (false, none) := by decide
theorem test_setMode : (after 0x0301#16 State.reset).map (fun t => t.mode) = some .crc16 := by decide
theorem test_setMode_inside_encode : answer 0x0301#16 (inOp .encFill .checksum 0#8) = some (0x0003#16, true) := by decide
theorem test_statusRd_decIn : answer 0x0400#16 (inOp .decIn .crc16 0#8) = some (0x0007#16, false) := by decide
theorem test_statusRd_mismatch :
    answer 0x0400#16 { State.reset with mode := .crc16, err := true, errcode := some .wrongPhase, res := .trlMismatch } =
      some (0x033C#16, false) := by decide
theorem test_bufRd : answer 0x0500#16 abcState = some (0x0061#16, false) := by decide
theorem test_bufRd_priority : answer 0x0580#16 (inOp .decIn .checksum 0#8) = some (0x0002#16, true) := by decide
theorem test_sumClr : (after 0x1000#16 { State.reset with sum := 0x7C#8 }).map (fun t => t.sum) = some 0x00#8 := by decide
theorem test_sumByte : (after 0x1120#16 { State.reset with sum := 0xF0#8 }).map (fun t => t.sum) = some 0x10#8 := by decide
theorem test_sumByte_wraps : (after 0x11FF#16 { State.reset with sum := 0xFF#8 }).map (fun t => t.sum) = some 0xFE#8 := by
  decide
theorem test_sumRd : answer 0x1200#16 { State.reset with sum := 0xDD#8 } = some (0x00DD#16, false) := by decide
theorem test_crcClr : (after 0x2000#16 { State.reset with crc := 0x31C3#16 }).map (fun t => t.crc) = some 0x0000#16 := by
  decide
theorem test_crcByte : (after 0x2131#16 State.reset).map (fun t => t.crc) = some 0x2672#16 := by decide
theorem test_crcByte_from_31C3 : (after 0x211A#16 { State.reset with crc := 0x31C3#16 }).map (fun t => t.crc) = some 0x5609#16 := by
  decide
theorem test_crcRd : answer 0x2200#16 { State.reset with crc := 0x31C3#16 } = some (0x31C3#16, false) := by decide
theorem test_encStart :
    (after 0x3001#16 { State.reset with sum := 5#8, ovf := true, res := .badLen }).map
      (fun t => (t.blk, t.sum, t.ovf, t.res, t.phase)) = some (1#8, 0x00#8, false, .none, .encFill) := by decide
theorem test_encData :
    (after 0x3161#16 (inOp .encFill .checksum 0#8)).map (fun t => (t.pbuf, t.crc, t.sum, t.cnt)) =
      some ([(0, 0x61#8)], 0x7C87#16, 0x61#8, 1#8) := by decide
theorem test_encData_full : answer 0x31AA#16 (inOp .encFill .checksum 128#8) = some (0x0004#16, true) := by decide
theorem test_encEnd_pads_last_byte :
    (after 0x3200#16 { inOp .encFill .checksum 127#8 with sum := 0xFE#8 }).map (fun t => (t.pbuf, t.sum, t.cnt, t.phase)) =
      some ([(127, 0x1A#8)], 0x18#8, 0#8, .encOut) := by decide
theorem test_encEnd_full : (after 0x3200#16 (inOp .encFill .crc16 128#8)).map (fun t => (t.pbuf, t.phase)) =
      some ([], .encOut) := by decide
theorem test_encPop_complement :
    answer 0x3300#16 { inOp .encOut .checksum 2#8 with blk := 1#8 } = some (0x00FE#16, false) := by decide
theorem test_encPop_last_byte :
    (after 0x3300#16 { inOp .encOut .crc16 132#8 with crc := 0x1716#16 }).map
      (fun t => (t.responses.map fun r => r.rdata, t.cnt, t.phase)) = some ([0x0016#16], 133#8, .idle) := by decide
theorem test_decStart :
    (after 0x4000#16 { State.reset with trl := 7#16, crc := 9#16, blk := 3#8 }).map
      (fun t => (t.trl, t.crc, t.blk, t.phase)) = some (0x0000#16, 0x0000#16, 3#8, .decIn) := by decide
theorem test_decData_second_trailer_byte :
    (after 0x4116#16 { inOp .decIn .crc16 131#8 with trl := 0x1700#16 }).map (fun t => (t.trl, t.cnt)) =
      some (0x1716#16, 132#8) := by decide
theorem test_decData_overflow :
    (after 0x4100#16 { inOp .decIn .checksum 131#8 with trl := 0x00D8#16 }).map (fun t => (t.trl, t.cnt, t.ovf)) =
      some (0x00D8#16, 131#8, true) := by decide
theorem test_decEnd_ok :
    answer 0x4200#16 { inOp .decIn .checksum 131#8 with blk := 1#8, cmp := 0xFE#8, trl := 0x00D8#16, sum := 0xD8#8 } =
      some (0x0001#16, false) := by decide
theorem test_decEnd_pair_before_trailer :
    answer 0x4200#16 { inOp .decIn .checksum 131#8 with blk := 1#8, cmp := 0xFF#8, trl := 0x00D9#16, sum := 0xD8#8 } =
      some (0x0002#16, false) := by decide
theorem test_decBlkRd : answer 0x4300#16 { State.reset with blk := 2#8 } = some (0x0002#16, false) := by decide
theorem test_reserved_opcode_keeps_first_cause :
    (after 0x9900#16 { State.reset with err := true, errcode := some .wrongPhase }).map
      (fun t => (t.responses.map fun r => (r.rdata, r.rerr), t.errcode)) =
      some ([(0x0001#16, true)], some .wrongPhase) := by decide

/-! ## The pure functions (95 sections 2.2, 2.3, 2.4) -/

theorem test_crc16_check_value :
    crc16 [0x31#8, 0x32#8, 0x33#8, 0x34#8, 0x35#8, 0x36#8, 0x37#8, 0x38#8, 0x39#8] = 0x31C3#16 := by decide +kernel
theorem test_crcUpdate_trace : crcUpdate 0x0000#16 0x80#8 = 0x9188#16 := by decide
theorem test_checksum8_abc : checksum8 [0x61#8, 0x62#8, 0x63#8] = 0x26#8 := by decide

/-! ## The assembler (30_encoding R86) -/

theorem test_assemble_hex :
    assembleLine ['C', 'R', 'C', '_', 'B', 'Y', 'T', 'E', ' ', '0', 'x', '3', '1'] = .command 0x2131#16 := by decide
theorem test_assemble_mode :
    assembleLine ['S', 'E', 'T', '_', 'M', 'O', 'D', 'E', ' ', 'C', 'R', 'C', '1', '6', ' ', ';'] = .command 0x0301#16 := by
  decide

/-! ## The pseudo-command DECODE (30_encoding R87) and the host's writes (45 R191, R210) -/

theorem test_macroDecode_without_readout :
    macroDecode .crc16 [] State.reset = [.setMode .crc16, .decStart, .decEnd] := by decide
theorem test_decodeTail_on_ok : (decodeTail 0x0001#16).length = 129 ∧ decodeTail 0x0002#16 = [] := by decide +kernel
theorem test_failed_write_of_last_ack_aborts :
    (⟨.checksum, .scanning, 0, 2#8, [0x61#8], [], State.reset⟩ : Receiver).step (.got [0x04#8]) (.ioError 0) =
      (⟨.checksum, .finished (.aborted .transportError), 0, 2#8, [0x61#8], [], State.reset⟩, []) := by decide
theorem test_last_ack_completes :
    (⟨.checksum, .scanning, 0, 2#8, [0x61#8, 0x1A#8], [], State.reset⟩ : Receiver).step (.got [0x04#8]) .all =
      (⟨.checksum, .finished .completed, 0, 2#8, [0x61#8, 0x1A#8], [0x61#8], State.reset⟩, [0x06#8]) := by decide
theorem test_partial_write_of_eot_aborts :
    ((⟨.awaitEot, 0, [], [], State.reset, .reset⟩ : Sender).step (.got []) (.part 0)).1.phase =
      .finished (.aborted .transportError) := by decide

/-- 70 R263 (3): an instance found inside an encode is aborted and its mode selected, its refusal record cleared. -/
theorem test_setUp_of_an_open_encode :
    let t := (Boot.check true).setUp .crc16 (inOp .encOut .checksum 57#8)
    (t.phase, t.mode, t.err, t.responses.map fun r => (r.rdata, r.rerr)) =
      (.idle, .crc16, false,
       [(0x0003#16, true), (0x003A#16, false), (0x0000#16, false), (0x0000#16, false), (0x0000#16, false)]) := by decide
/-- 70 R263: an idle instance gets SET_MODE and STATUS_RD and nothing else. -/
theorem test_setUp_of_an_idle_instance :
    ((Boot.check false).setUp .crc16 State.reset).responses.map (fun r => (r.rdata, r.rerr)) =
      [(0x0000#16, false), (0x0004#16, false)] := by decide

/-! ## Witnesses: the hypotheses of each obligation, met together, each clause at an edge of its range -/

/-- A state with the events of a command sequence presented. -/
def presented (is : List Instr) (s : State) : State := { s with port := commandEvents is ++ [.reset] }

theorem witness_DecodeAndEncodeAgree : decode 0x11FF#16 = .instr (.sumByte 0xFF#8) := by decide
theorem witness_ExactlyThe1423LegalWordsDecode :
    ∃ r ∈ opcodeTable, OpcodeRow.matches r 0x057F#16 = true := ⟨⟨"BUF_RD", 0x05#8, .a⟩, by decide, by decide⟩
theorem witness_StepRunsTheDecodedCommand :
    ∃ (s : State) (w : Word) (rest : List PortEvent) (i : Instr), s.port = .command w :: rest ∧ decode w = .instr i :=
  ⟨presentNext 0x1120#16 State.reset, _, _, .sumByte 0x20#8, rfl, by decide⟩
theorem witness_StepRunsTheDecodedCommand_encoded :
    ∃ (s : State) (i : Instr) (rest : List PortEvent), s.port = .command (encode i) :: rest :=
  ⟨presentNext (encode .nop) State.reset, .nop, _, rfl⟩
theorem witness_StepRefusesAWordThatIsNoCommand_opcode :
    ∃ (s : State) (w : Word) (rest : List PortEvent), s.port = .command w :: rest ∧ decode w = .illegalOpcode :=
  ⟨presentNext 0x0600#16 State.reset, _, _, rfl, by decide⟩
theorem witness_StepRefusesAWordThatIsNoCommand_argument :
    ∃ (s : State) (w : Word) (rest : List PortEvent), s.port = .command w :: rest ∧ decode w = .badArg :=
  ⟨presentNext 0x0580#16 State.reset, _, _, rfl, by decide⟩
theorem witness_StepAppliesReset :
    ∃ (s : State) (rest : List PortEvent), s.port = .reset :: rest :=
  ⟨{ inOp .encOut .crc16 57#8 with port := [.reset] }, [], rfl⟩
theorem witness_badArgWords :
    (0x00FF#16 : Word) = 0x00#8 ++ 0xFF#8 ∧ (0xFF#8 : Byte) ≠ 0x00#8 ∧ 2 ≤ (2#8 : Byte).toNat ∧ 128 ≤ (128#8 : Byte).toNat ∧
    (presentNext 0x00FF#16 State.reset).port = .command 0x00FF#16 :: State.reset.port := by decide
theorem witness_EveryCommandWordGetsOneResponse :
    ∃ (s : State) (w : Word) (rest : List PortEvent), s.port = .command w :: rest :=
  ⟨presentNext 0xFFFF#16 State.reset, _, _, rfl⟩

/-- The phase hypotheses of the command statements: IDLE, and each of the other phases. -/
theorem witness_phases :
    State.reset.phase = .idle ∧ State.reset.phase ≠ .encFill ∧ State.reset.phase ≠ .encOut ∧ State.reset.phase ≠ .decIn ∧
    (inOp .encFill .checksum 0#8).phase ≠ .idle ∧ (inOp .encOut .checksum 0#8).phase ≠ .idle ∧
    (inOp .decIn .checksum 0#8).phase ≠ .idle := by decide
theorem witness_BufRdReturnsTheBufferByte : Memory.get? abcState.pbuf (2#7).toNat = some 0x63#8 := by decide
theorem witness_EncDataAppendsAPayloadByte_room :
    (inOp .encFill .checksum 127#8).phase = .encFill ∧ (inOp .encFill .checksum 127#8).cnt.toNat < 128 := by decide
theorem witness_EncDataAppendsAPayloadByte_full :
    (inOp .encFill .checksum 128#8).phase = .encFill ∧ (inOp .encFill .checksum 128#8).cnt.toNat = 128 := by decide
theorem witness_EncPopReturnsTheNextFrameByte_checksum :
    ∀ k ∈ [0#8, 1#8, 2#8, 3#8, 130#8, 131#8], (inOp .encOut .checksum k).phase = .encOut ∧
      (inOp .encOut .checksum k).cnt.toNat < (if (inOp .encOut .checksum k).mode = .checksum then 132 else 133) := by decide
theorem witness_EncPopReturnsTheNextFrameByte_crc16 :
    ∀ k ∈ [131#8, 132#8], (inOp .encOut .crc16 k).phase = .encOut ∧
      (inOp .encOut .crc16 k).cnt.toNat < (if (inOp .encOut .crc16 k).mode = .checksum then 132 else 133) := by decide
theorem witness_DecDataTakesAFrameByte_full :
    ∀ x ∈ [(Mode.checksum, 131#8), (Mode.crc16, 132#8)], (inOp .decIn x.1 x.2).phase = .decIn ∧
      (inOp .decIn x.1 x.2).cnt.toNat = (if (inOp .decIn x.1 x.2).mode = .checksum then 131 else 132) := by decide
theorem witness_DecDataTakesAFrameByte_payload :
    ∀ k ∈ [2#8, 129#8], (inOp .decIn .checksum k).phase = .decIn ∧ 2 ≤ (inOp .decIn .checksum k).cnt.toNat ∧
      (inOp .decIn .checksum k).cnt.toNat ≤ 129 := by decide
theorem witness_DecDataTakesAFrameByte_other_positions :
    (inOp .decIn .checksum 0#8).cnt.toNat = 0 ∧ (inOp .decIn .checksum 1#8).cnt.toNat = 1 ∧
    (inOp .decIn .checksum 130#8).cnt.toNat = 130 ∧ (inOp .decIn .crc16 130#8).cnt.toNat = 130 ∧
    (inOp .decIn .crc16 131#8).cnt.toNat = 131 := by decide
/-- One state for each line of the verdict (43 R155). -/
theorem witness_DecEndGivesTheVerdict :
    verdict (inOp .decIn .checksum 130#8) = .badLen ∧ verdict { inOp .decIn .crc16 132#8 with ovf := true } = .badLen ∧
    verdict (inOp .decIn .checksum 131#8) = .badPair ∧
    verdict { inOp .decIn .checksum 131#8 with blk := 1#8, cmp := 254#8, trl := 1#16 } = .trlMismatch ∧
    verdict { inOp .decIn .crc16 132#8 with cmp := 255#8, trl := 0x0100#16 } = .trlMismatch ∧
    verdict { inOp .decIn .crc16 132#8 with cmp := 255#8 } = .ok := by decide

theorem witness_RefusalIsPrecise :
    ∃ (s t : State) (w : Word) (rest : List PortEvent) (v : Word), s.port = .command w :: rest ∧ step s = .next t ∧
      t.responses = s.responses ++ [⟨v, true⟩] :=
  ⟨presentNext 0x3300#16 State.reset, raiseRefusal .wrongPhase State.reset, 0x3300#16, [], 3#16, rfl, rfl, rfl⟩
theorem witness_ErrcodeKeepsTheFirstCause :
    ∃ (s t : State) (w : Word) (rest : List PortEvent) (c : Cause), s.port = .command w :: rest ∧ step s = .next t ∧
      t.responses = s.responses ++ [⟨c.code.setWidth 16, true⟩] ∧ s.err = true :=
  ⟨presentNext 0x9900#16 { State.reset with err := true, errcode := some .wrongPhase },
    raiseRefusal .illegalOpcode { State.reset with err := true, errcode := some .wrongPhase },
    0x9900#16, [], .illegalOpcode, rfl, rfl, rfl, rfl⟩
theorem witness_RegistersChangeOnlyAsListed :
    (∃ t, exec (.sumByte 1#8) State.reset = .next t ∧ accepts (.sumByte 1#8) State.reset) ∧
    (∃ t, exec .encPop State.reset = .next t ∧ ¬ accepts .encPop State.reset) :=
  ⟨⟨_, rfl, by decide⟩, ⟨_, rfl, by decide⟩⟩
theorem witness_OtherCommandsLeaveTheBuffer :
    (∃ t, exec .decStart State.reset = .next t ∧ storesToBuffer .decStart = false) ∧
    (∃ t, exec .encEnd State.reset = .next t ∧ ¬ accepts .encEnd State.reset) := ⟨⟨_, rfl, rfl⟩, ⟨_, rfl, by decide⟩⟩
theorem witness_EncoderStoresOnlyAtItsAddresses :
    (∃ t, exec (.encData 9#8) (inOp .encFill .checksum 127#8) = .next t) ∧
    (∃ t, exec .encEnd (inOp .encFill .checksum 0#8) = .next t) := ⟨⟨_, rfl⟩, ⟨_, rfl⟩⟩
theorem witness_DecDataStoresAtItsAddress :
    (∃ t, exec (.decData 9#8) (inOp .decIn .checksum 129#8) = .next t) ∧ recvStores 2#8 = true ∧ recvStores 129#8 = true ∧
    recvStores 1#8 = false ∧ recvStores 130#8 = false := ⟨⟨_, rfl⟩, by decide⟩

/-- A state inside an encode, one byte loaded. -/
def oneLoaded : State :=
  { inOp .encFill .checksum 1#8 with
    pbuf := [(0, 0x61#8)], crc := 0x7C87#16, sum := 0x61#8, port := [.command 0x3200#16] }

theorem oneLoaded_inv : oneLoaded.Inv where
  cnt := by show oneLoaded.cnt.toNat ≤ 128; decide
  ovf := fun h => by cases h
  err := by show oneLoaded.errcode = none ↔ oneLoaded.err = false; decide
  acc := fun _ => by decide
  mem := by decide
  fill := fun i hi => by
    have h : i < 1 := hi
    have : i = 0 := by omega
    subst this
    decide

theorem witness_EveryStepKeepsTheInvariant : oneLoaded.Inv ∧ ∃ t, step oneLoaded = .next t := ⟨oneLoaded_inv, _, rfl⟩
theorem witness_EveryStepKeepsTheBufferCanonical : Memory.wf abcState.pbuf = true ∧ ∃ t, step (presentNext 0x0500#16 abcState) = .next t :=
  ⟨by decide, _, rfl⟩
theorem witness_EncEndPadsAndCloses : oneLoaded.Inv ∧ oneLoaded.phase = .encFill ∧ ∃ t, exec .encEnd oneLoaded = .next t :=
  ⟨oneLoaded_inv, rfl, _, rfl⟩
theorem witness_InvariantGivesTheSpecsBounds_decIn :
    ∃ s : State, s.Inv ∧ s.phase = .decIn ∧ 2 ≤ s.cnt.toNat :=
  ⟨inOp .decIn .checksum 2#8,
    { cnt := by show (2#8).toNat ≤ 131; decide
      ovf := fun h => by cases h
      err := by show (inOp .decIn .checksum 2#8).errcode = none ↔ (inOp .decIn .checksum 2#8).err = false; decide
      acc := fun _ => by decide
      mem := by decide
      fill := fun i hi => by have h : i < 0 := hi; omega }, rfl, by decide⟩
/-- The state inside the readout of a frame with 128 zero bytes, the last frame byte still to be popped. -/
def lastToPop : State :=
  { inOp .encOut .checksum 131#8 with pbuf := (List.range 128).map (fun i => (i, 0x00#8)) }

theorem crc16_zeros (n : Nat) : crc16 (List.replicate n 0x00#8) = 0x0000#16 := by
  have h : crcUpdate 0x0000#16 0x00#8 = 0x0000#16 := by decide
  unfold crc16 Config.crcInit
  induction n with
  | zero => rfl
  | succ n ih => rw [List.replicate_succ, List.foldl_cons, h, ih]

theorem checksum8_zeros (n : Nat) : checksum8 (List.replicate n 0x00#8) = 0x00#8 := by
  unfold checksum8
  induction n with
  | zero => rfl
  | succ n ih => rw [List.replicate_succ, List.foldl_cons]; exact ih

theorem lastToPop_payload : lastToPop.payload 128 = List.replicate 128 0x00#8 := by decide +kernel

theorem witness_InvariantGivesTheSpecsBounds_encOut : lastToPop.Inv ∧ lastToPop.phase = .encOut :=
  ⟨{ cnt := by show lastToPop.cnt.toNat + 1 ≤ 132; decide
     ovf := fun h => by cases h
     err := by show lastToPop.errcode = none ↔ lastToPop.err = false; decide
     acc := fun _ => by
       show 0x0000#16 = crc16 (lastToPop.payload 128) ∧ 0x00#8 = checksum8 (lastToPop.payload 128)
       rw [lastToPop_payload, crc16_zeros, checksum8_zeros]; exact ⟨rfl, rfl⟩
     mem := by decide +kernel
     fill := by show ∀ i, i < 128 → _; decide +kernel }, rfl⟩
theorem witness_InvariantGivesTheSpecsBounds_ovf :
    ∃ s : State, s.Inv ∧ s.ovf = true ∧ s.phase = .idle :=
  ⟨{ State.reset with ovf := true, crc := 9#16 },
    { cnt := trivial
      ovf := fun _ => .inr rfl
      err := by show (none : Option Cause) = none ↔ false = false; decide
      acc := fun h => absurd rfl h
      mem := rfl
      fill := fun i hi => by have h : i < 0 := hi; omega }, rfl, rfl⟩
theorem witness_PhaseMovesOnlyAsListed :
    ∃ (s t : State) (e : PortEvent) (rest : List PortEvent), s.port = e :: rest ∧ step s = .next t ∧ t.phase ≠ s.phase :=
  ⟨presentNext 0x3001#16 State.reset, _, _, _, rfl, rfl, by decide⟩
theorem witness_ModeChangesOnlyBySetModeInIdle :
    ∃ (s t : State) (e : PortEvent) (rest : List PortEvent), s.port = e :: rest ∧ step s = .next t ∧ t.mode ≠ s.mode :=
  ⟨presentNext 0x0301#16 State.reset, _, _, _, rfl, rfl, by decide⟩
theorem witness_OvfIsSetAndClearedAsListed_set :
    ∃ (s t : State) (e : PortEvent) (rest : List PortEvent), s.port = e :: rest ∧ step s = .next t ∧ s.ovf = false ∧
      t.ovf = true := ⟨presentNext 0x4100#16 (inOp .decIn .checksum 131#8), _, _, _, rfl, rfl, rfl, by decide⟩
theorem witness_OvfIsSetAndClearedAsListed_cleared :
    ∃ (s t : State) (e : PortEvent) (rest : List PortEvent), s.port = e :: rest ∧ step s = .next t ∧ s.ovf = true ∧
      t.ovf = false := ⟨presentNext 0x4000#16 { State.reset with ovf := true }, _, _, _, rfl, rfl, rfl, by decide⟩
theorem witness_ErrIsSticky_cleared :
    ∃ (s t : State) (e : PortEvent) (rest : List PortEvent), s.port = e :: rest ∧ step s = .next t ∧ s.err = true ∧
      t.err = false := ⟨presentNext 0x0200#16 { State.reset with err := true }, _, _, _, rfl, rfl, rfl, by decide⟩

theorem witness_ChecksumCommandsComputeChecksum8 :
    (presented (macroChecksum8 [0xFF#8, 1#8]) State.reset).port = commandEvents (macroChecksum8 [0xFF#8, 1#8]) ++ [.reset] ∧
    (presented (fillSeq 1#8 (List.replicate 128 7#8)) State.reset).phase = .idle ∧
    (List.replicate 128 7#8).length ≤ 128 ∧ 130 ≤ (List.replicate 130 7#8).length ∧
    (presented (receiveSeq (List.replicate 130 7#8)) State.reset).phase = .idle := by
  refine ⟨rfl, rfl, ?_, ?_, rfl⟩ <;> simp
theorem witness_EncoderSequenceEmitsTheFrame :
    ∃ is : List Instr, (is.filter fun i => !harmless i) = encodeSeq .crc16 255#8 [0x18#8] ∧ Instr.errClr ∈ is ∧
      (presented is { State.reset with mode := .crc16 }).phase = .idle ∧
      (presented is { State.reset with mode := .crc16 }).port = commandEvents is ++ [.reset] :=
  ⟨.errClr :: encodeSeq .crc16 255#8 [0x18#8], by decide +kernel, by decide +kernel, rfl, rfl⟩
theorem witness_CrcCommandsComputeCrc16 :
    (presented (macroCrc16 [0x31#8, 0x32#8]) State.reset).phase = .idle ∧
    (presented (macroCrc16 [0x31#8, 0x32#8]) State.reset).port = commandEvents (macroCrc16 [0x31#8, 0x32#8]) ++ [.reset] :=
  ⟨rfl, rfl⟩
theorem witness_DecoderSequenceGivesTheVerdict_bytes :
    (presented (decodeSeq [0x01#8, 0xFE#8, 0x61#8]) State.reset).phase = .idle ∧
    (presented (decodeSeq [0x01#8, 0xFE#8, 0x61#8]) State.reset).port =
      commandEvents (decodeSeq [0x01#8, 0xFE#8, 0x61#8]) ++ [.reset] := ⟨rfl, rfl⟩
theorem witness_DecoderSequenceGivesTheVerdict :
    (presented (decodeSeq []) State.reset).phase = .idle ∧
    (presented (decodeSeq []) State.reset).port = commandEvents (decodeSeq []) ++ [.reset] := ⟨rfl, rfl⟩

/-- A valid frame remainder, block 1, empty payload, Checksum mode. -/
def validRem : List Byte := (encodeFrame .checksum 1#8 []).drop 1

theorem witness_OneByteCorruptionIsDetected :
    0xFE#8 ≠ validRem.getD 0 0 ∧ 0x01#8 ≠ validRem.getD 1 0 ∧ 0x1B#8 ≠ validRem.getD 2 0 ∧ 0x1B#8 ≠ validRem.getD 129 0 ∧
    [0x01#8].length = Config.trailerLen .checksum ∧ [0x01#8] ≠ validRem.drop 130 := by decide +kernel
theorem witness_crc_lengths : [1#8, 2#8].length = [3#8, 4#8].length ∧ (1#8 : Byte) ≠ 2#8 := by decide
theorem witness_perm : [1#8, 2#8].Perm [2#8, 1#8] := List.Perm.swap 2#8 1#8 []

/-- A receiver that has read the SOH of block 1 and waits for the rest of its frame. -/
def waiting : Receiver := ⟨.checksum, .readingFrame, 0, 1#8, [], [], State.reset⟩

theorem witness_ReceiverAppendsOnlyTheExpectedBlock_expected :
    waiting.codec.phase = .idle ∧ waiting.codec.mode = waiting.mode ∧
    decodeFrame waiting.mode validRem = .ok waiting.expected (List.replicate 128 0x1A#8) := by decide +kernel
theorem witness_ReceiverAppendsOnlyTheExpectedBlock_rejected :
    waiting.attempts + 1 < 10 ∧ ∀ q, decodeFrame waiting.mode [] ≠ .ok waiting.expected q :=
  ⟨by decide, fun q h => by cases h⟩
theorem witness_SenderRetriesAreBounded_start :
    (List.replicate 6 (⟨.got [0x06#8], .all⟩ : Turn)).length = 6 ∧ State.reset.phase = .idle ∧
    ∀ t ∈ List.replicate 6 (⟨.got [0x06#8], .all⟩ : Turn), t.read = .got [] ∨
      ∃ b, t.read = .got [b] ∧ b ≠ 0x15#8 ∧ b ≠ 0x43#8 ∧ b ≠ 0x18#8 :=
  ⟨by simp, rfl, fun _ ht => .inr ⟨0x06#8, by rw [List.eq_of_mem_replicate ht], by decide⟩⟩
theorem witness_SenderRetriesAreBounded_reads :
    (List.replicate 10 (⟨.got [0x15#8], .all⟩ : Turn)).length = 10 ∧
    ∀ t ∈ List.replicate 10 (⟨.got [0x15#8], .all⟩ : Turn), t.write = .all ∧
      (t.read = .got [] ∨ ∃ b, t.read = .got [b] ∧ b ≠ 0x06#8 ∧ b ≠ 0x18#8) :=
  ⟨by simp, fun _ ht => by
    rw [List.eq_of_mem_replicate ht]; exact ⟨rfl, .inr ⟨0x15#8, rfl, by decide⟩⟩⟩
theorem witness_SenderRetriesAreBounded_states :
    (⟨.sendingBlock 1#8, 0, [1#8], [], State.reset, .reset⟩ : Sender).codec.phase = .idle ∧
    (⟨.sendingBlock 1#8, 0, [1#8], [], State.reset, .reset⟩ : Sender).inFlight.length ≤ 128 ∧
    (⟨.awaitEot, 0, [], [], State.reset, .reset⟩ : Sender).phase = .awaitEot := by decide
theorem witness_CanAbortsATransferAtOnce :
    (∀ o, (Sender.start .reset [1#8] State.reset).phase ≠ .finished o) ∧ (Receiver.start .reset .crc16 .all State.reset).1.phase = .negotiating ∧
    waiting.phase = .readingFrame := ⟨(fun o h => by cases h), rfl, rfl⟩
theorem witness_LosslessLinkDeliversTheFile :
    [0x1A#8] ≠ [] ∧ (Boot.check true = .reset ∨ Boot.check true = .check true) ∧
    (inOp .decIn .checksum 9#8).phase ≠ .idle := by decide
theorem witness_DecodeInvertsEncode :
    (List.replicate 128 7#8).length ≤ 128 ∧ State.reset.phase = .idle ∧ (inOp .idle .checksum 9#8).mode = State.reset.mode := by
  refine ⟨?_, rfl, rfl⟩; simp

end Sys2Proof.Tests
end

section
/-! The port and the decoder: one equation of `step` for each event that can be next, and the decoder on the word of a
command. -/

namespace Sys2Proof.Machine

/-! ### Decoding an encoded word -/

/-- Format A takes a zero bit and an address apart again (30_encoding R75). -/
theorem decodeA_zero_append (a : Addr) (mk : Addr → Instr) : decodeA (0#1 ++ a) mk = .instr (mk a) := by
  have hbit : (0#1 ++ a).extractLsb' 7 1 = 0#1 := BitVec.extractLsb'_append_eq_left
  have haddr : (0#1 ++ a).extractLsb' 0 7 = a := BitVec.extractLsb'_append_eq_right
  simp [decodeA, hbit, haddr]

/-- Format M takes seven zero bits and a mode's bit apart again (30_encoding R76). -/
theorem decodeM_zero_append (m : Mode) (mk : Mode → Instr) : decodeM (0#7 ++ m.bit) mk = .instr (mk m) := by
  cases m <;> rfl

/-- The decoder on a word put together from its two fields (30_encoding R71). -/
theorem decode_cmdWord (op arg : Byte) : decode (cmdWord op arg) = decodeFields op arg := by
  rw [decode, opField_cmdWord, argField_cmdWord]

/-- The encoded word of a command decodes to the command: its opcode picks its own row, and the row's format gives the
operand back (30_encoding R72). -/
@[simp] theorem decode_encode (i : Instr) : decode (encode i) = .instr i := by
  cases i <;> rw [encode, decode_cmdWord]
  case setMode m => exact decodeM_zero_append m .setMode
  case bufRd a => exact decodeA_zero_append a .bufRd
  all_goals rfl

/-! ### One step, by the event at the front of the port -/

theorem takeEvent_of_port_nil {s : State} (h : s.port = []) : takeEvent s = none := by
  simp [takeEvent, h]

theorem takeEvent_of_port_cons {s : State} {e : PortEvent} {rest : List PortEvent} (h : s.port = e :: rest) :
    takeEvent s = some (e, { s with port := rest }) := by
  simp [takeEvent, h]

theorem step_of_port_nil {s : State} (h : s.port = []) : step s = .fault .portEmpty := by
  simp only [step, takeEvent_of_port_nil h]

theorem step_of_port_reset {s : State} {rest : List PortEvent} (h : s.port = .reset :: rest) :
    step s = .next (resetBlock { s with port := rest }) := by
  simp only [step, takeEvent_of_port_cons h, takeReset]

section Command
variable {s : State} {w : Word} {rest : List PortEvent} (hport : s.port = .command w :: rest)
include hport

theorem step_of_decode_instr {i : Instr} (hw : decode w = .instr i) : step s = exec i { s with port := rest } := by
  simp only [step, takeEvent_of_port_cons hport, hw]

theorem step_of_decode_illegalOpcode (hw : decode w = .illegalOpcode) :
    step s = .next (raiseRefusal .illegalOpcode { s with port := rest }) := by
  simp only [step, takeEvent_of_port_cons hport, hw, refuseOpcode]

theorem step_of_decode_badArg (hw : decode w = .badArg) :
    step s = .next (raiseRefusal .badArg { s with port := rest }) := by
  simp only [step, takeEvent_of_port_cons hport, hw, refuseArg]

end Command

/-- No command ends in a fault or a refusal of the model: a phase mismatch and a full buffer are answers of the block,
given in its next state (60 R231). -/
theorem exec_eq_next (i : Instr) (s : State) : ∃ t, exec i s = .next t := by
  cases i <;> exact ⟨_, rfl⟩

/-- Whatever event is presented, the step has a next state. -/
theorem step_eq_next_of_port_cons {s : State} {e : PortEvent} {rest : List PortEvent} (h : s.port = e :: rest) :
    ∃ t, step s = .next t := by
  cases e with
  | reset => exact ⟨_, step_of_port_reset h⟩
  | command w =>
    cases hw : decode w with
    | instr i => rw [step_of_decode_instr h hw]; exact exec_eq_next i _
    | illegalOpcode => exact ⟨_, step_of_decode_illegalOpcode h hw⟩
    | badArg => exact ⟨_, step_of_decode_badArg h hw⟩

/-! ### The statements -/

/-- Settles O5: the step's equation for a word that decodes, and that an encoded word decodes to its command. -/
theorem stepRunsTheDecodedCommand : Obligations.StepRunsTheDecodedCommand :=
  ⟨fun _ _ _ _ hport hw => step_of_decode_instr hport hw,
   fun _ i _ hport => step_of_decode_instr hport (decode_encode i)⟩

/-- Settles O9: an empty port is the one fault, since every event presented has a next state. -/
theorem stepStopsWhenNothingIsPresented : Obligations.StepStopsWhenNothingIsPresented := by
  refine fun s => ⟨step_of_port_nil, fun hfault => ?_⟩
  cases hport : s.port with
  | nil => rfl
  | cons e rest =>
    obtain ⟨t, hnext⟩ := step_eq_next_of_port_cons hport
    rw [hfault] at hnext
    cases hnext

end Sys2Proof.Machine
end

section
/-! The word of a command: a word that decodes to a command is that command's encoded word. -/

namespace Sys2Proof.Machine

/-- A bit vector is its two parts put together again. -/
theorem extractLsb'_append_extractLsb'_zero {m n : Nat} (x : BitVec (m + n)) :
    x.extractLsb' n m ++ x.extractLsb' 0 n = x := by
  rw [BitVec.extractLsb'_append_extractLsb'_eq_extractLsb' (Nat.zero_add n).symm, BitVec.extractLsb'_eq_self]

theorem cmdWord_opField_argField (w : Word) : cmdWord (opField w) (argField w) = w :=
  extractLsb'_append_extractLsb'_zero (m := 8) (n := 8) w

/-- What a word's two fields decode to is a command only if they are the fields of its encoded word. -/
def OnlyWord (op arg : Byte) (d : Decoded) : Prop := ∀ i, d = .instr i → encode i = cmdWord op arg

/-! Each format read backwards: an argument that decodes in it is the one its row's command encodes
(30_encoding R73 to R76). -/

theorem OnlyWord.decodeN {op arg : Byte} {j : Instr} (hrow : encode j = cmdWord op 0x00#8) :
    OnlyWord op arg (decodeN arg j) := by
  intro i h
  unfold Sys2Proof.decodeN at h
  split at h
  · rename_i harg
    cases h
    rw [hrow, harg]
  · cases h

theorem OnlyWord.decodeB {op arg : Byte} {mk : Byte → Instr} (hrow : ∀ b, encode (mk b) = cmdWord op b) :
    OnlyWord op arg (decodeB arg mk) := by
  intro i h
  cases h
  exact hrow arg

theorem OnlyWord.decodeA {op arg : Byte} {mk : Addr → Instr} (hrow : ∀ a, encode (mk a) = cmdWord op (0#1 ++ a)) :
    OnlyWord op arg (decodeA arg mk) := by
  intro i h
  unfold Sys2Proof.decodeA at h
  split at h
  · rename_i hbit
    cases h
    rw [hrow, ← hbit, extractLsb'_append_extractLsb'_zero (m := 1) (n := 7) arg]
  · cases h

/-- The mode a bit selects has that bit (10_state R23). -/
theorem mode_bit_ite (x : BitVec 1) : Mode.bit (if x = 1#1 then .crc16 else .checksum) = x := by
  revert x; decide

theorem OnlyWord.decodeM {op arg : Byte} {mk : Mode → Instr}
    (hrow : ∀ m : Mode, encode (mk m) = cmdWord op (0#7 ++ m.bit)) : OnlyWord op arg (decodeM arg mk) := by
  intro i h
  unfold Sys2Proof.decodeM at h
  split at h
  · rename_i hbits
    cases h
    rw [hrow, mode_bit_ite, ← hbits, extractLsb'_append_extractLsb'_zero (m := 7) (n := 1) arg]
  · cases h

theorem OnlyWord.row {op k arg : Byte} {d rest : Decoded} (hrow : OnlyWord k arg d) (hrest : OnlyWord op arg rest) :
    OnlyWord op arg (if op = k then d else rest) := by
  split
  · rename_i hop
    rwa [hop]
  · exact hrest

/-- The twenty rows in the table's order, and nothing after them (30_encoding R72). -/
theorem onlyWord_decodeFields (op arg : Byte) : OnlyWord op arg (decodeFields op arg) :=
  -- control and status
  .row (.decodeN rfl) <| .row (.decodeN rfl) <| .row (.decodeN rfl) <| .row (.decodeM fun _ => rfl) <|
  .row (.decodeN rfl) <| .row (.decodeA fun _ => rfl) <|
  -- the two standalone units
  .row (.decodeN rfl) <| .row (.decodeB fun _ => rfl) <| .row (.decodeN rfl) <|
  .row (.decodeN rfl) <| .row (.decodeB fun _ => rfl) <| .row (.decodeN rfl) <|
  -- the framer
  .row (.decodeB fun _ => rfl) <| .row (.decodeB fun _ => rfl) <| .row (.decodeN rfl) <| .row (.decodeN rfl) <|
  .row (.decodeN rfl) <| .row (.decodeB fun _ => rfl) <| .row (.decodeN rfl) <| .row (.decodeN rfl) <|
  fun _ h => nomatch h

theorem encode_of_decode {w : Word} {i : Instr} (h : decode w = .instr i) : encode i = w := by
  rw [onlyWord_decodeFields _ _ i h, cmdWord_opField_argField]

end Sys2Proof.Machine
end

section
/-! What a command can do: `exec` gives the state of the executed command or the one refusal, and a step is a reset, an
executed command or a refused word. -/

namespace Sys2Proof.Machine

/-- The next state of an accepted command, response included: the effect of each row (40, 41, 42, 43, 44). -/
def executed : Instr → State → State
  | .nop, s => accept s
  | .abort, s => accept { s with phase := .idle, res := .none, ovf := false }
  | .errClr, s => accept { s with err := false, errcode := Option.none }
  | .setMode m, s => accept { s with mode := m }
  | .statusRd, s => respond (statusWord s) s
  | .bufRd a, s => respond (zext (s.readBuf a)) s
  | .sumClr, s => accept { s with sum := 0x00#8 }
  | .sumByte b, s => accept { s with sum := s.sum + b }
  | .sumRd, s => respond (zext s.sum) s
  | .crcClr, s => accept { s with crc := Config.crcInit }
  | .crcByte b, s => accept { s with crc := crcUpdate s.crc b }
  | .crcRd, s => respond s.crc s
  | .encStart n, s => accept { s with
      blk := n, cnt := 0x00#8, crc := Config.crcInit, sum := 0x00#8, res := .none, ovf := false, phase := .encFill }
  | .encData b, s => accept (fillByte b s)
  | .encEnd, s => accept { padFrom s.cnt.toNat (Config.payloadLen - s.cnt.toNat) s with
      cnt := 0x00#8, phase := .encOut }
  | .encPop, s => respond (zext (frameByte s s.cnt.toNat)) { s with
      cnt := s.cnt + 1
      phase := if s.cnt.toNat + 1 = Config.frameLen s.mode then .idle else .encOut }
  | .decStart, s => accept { s with
      cnt := 0x00#8, crc := Config.crcInit, sum := 0x00#8, trl := 0x0000#16, res := .none, ovf := false,
      phase := .decIn }
  | .decData b, s =>
      accept (if s.cnt.toNat = Config.remLen s.mode then { s with ovf := true } else recvByte b s)
  | .decEnd, s => respond ((verdict s).code.setWidth 16) { s with res := verdict s, phase := .idle }
  | .decBlkRd, s => respond (zext s.blk) s

/-! ### The acceptance matrix (60 R234) -/

theorem accepts_iff {i : Instr} {s : State} :
    accepts i s ↔ (∀ p, phaseNeeded i = some p → s.phase = p) ∧
      (needsRoom i = true → s.cnt.toNat < Config.payloadLen) := by
  simp only [accepts, refusalCause, Option.mem_def]
  split_ifs with hphase hroom
  · obtain ⟨p, hp, hne⟩ := hphase
    simp only [false_iff]
    exact fun h => hne (h.1 p hp)
  · simp only [false_iff]
    exact fun h => hroom.2 (h.2 hroom.1)
  · simp only [true_iff]
    push Not at hphase hroom
    exact ⟨hphase, hroom⟩

theorem not_accepts_of_refusalCause {i : Instr} {s : State} {c : Cause} (hc : refusalCause i s = some c) :
    ¬ accepts i s := by
  simp [accepts, hc]

theorem phase_of_accepts {i : Instr} {s : State} {p : Phase} (ha : accepts i s) (hp : phaseNeeded i = some p) :
    s.phase = p :=
  (accepts_iff.mp ha).1 p hp

theorem room_of_accepts {b : Byte} {s : State} (ha : accepts (.encData b) s) : s.cnt.toNat < Config.payloadLen :=
  (accepts_iff.mp ha).2 rfl

theorem accepts_of_phase {i : Instr} {s : State} {p : Phase} (hp : phaseNeeded i = some p) (hroom : needsRoom i = false)
    (hphase : s.phase = p) : accepts i s := by
  refine accepts_iff.mpr ⟨fun q hq => ?_, fun hneeds => by simp [hroom] at hneeds⟩
  rw [hphase]
  exact Option.some.inj (hp.symm.trans hq)

/-! ### A command is executed or refused -/

theorem exec_of_accepts {i : Instr} {s : State} (ha : accepts i s) : exec i s = .next (executed i s) := by
  have hphase : ∀ p, phaseNeeded i = some p → s.phase = p := (accepts_iff.mp ha).1
  cases i
  case encData b =>
    rw [exec, execEncData, inPhase_here (hphase _ rfl), if_pos (room_of_accepts ha), executed]
  case nop | abort | errClr | statusRd | sumRd | crcRd | decBlkRd => rfl
  all_goals exact inPhase_here (hphase _ rfl)

theorem exec_of_wrongPhase {i : Instr} {s : State} {p : Phase} (hp : phaseNeeded i = some p) (hne : s.phase ≠ p) :
    exec i s = .next (raiseRefusal .wrongPhase s) := by
  cases i <;> cases hp <;> exact inPhase_elsewhere hne

theorem exec_of_refusalCause {i : Instr} {s : State} {c : Cause} (hc : refusalCause i s = some c) :
    exec i s = .next (raiseRefusal c s) := by
  unfold refusalCause at hc
  split_ifs at hc with hphase hroom <;> cases hc
  · obtain ⟨p, hp, hne⟩ := hphase
    exact exec_of_wrongPhase hp hne
  · have hneeds := hroom.1
    cases i <;> cases hneeds
    have hfill : s.phase = .encFill := by simpa [phaseNeeded] using hphase
    rw [exec, execEncData, inPhase_here hfill, if_neg hroom.2]

/-- Everything a command can do. -/
theorem exec_cases {i : Instr} {s t : State} (h : exec i s = .next t) :
    (accepts i s ∧ t = executed i s) ∨ ∃ c, refusalCause i s = some c ∧ t = raiseRefusal c s := by
  cases hc : refusalCause i s with
  | none => rw [exec_of_accepts hc] at h; cases h; exact .inl ⟨hc, rfl⟩
  | some c => rw [exec_of_refusalCause hc] at h; cases h; exact .inr ⟨c, rfl, rfl⟩

/-- Everything a step can do, with the event named: `step_next_cases` with each word that is a command written as its
encoded word and the three ways to refuse a word put together. -/
theorem step_cases {s t : State} {e : PortEvent} {rest : List PortEvent} (hport : s.port = e :: rest)
    (h : step s = .next t) :
    (e = .reset ∧ t = resetBlock { s with port := rest }) ∨
    (∃ i, e = .command (encode i) ∧ accepts i { s with port := rest } ∧ t = executed i { s with port := rest }) ∨
    (∃ w c, e = .command w ∧ t = raiseRefusal c { s with port := rest }) := by
  obtain ⟨e', rest', hport', hcases⟩ := step_next_cases h
  obtain ⟨rfl, rfl⟩ : e = e' ∧ rest = rest' := by simpa [hport] using hport'
  obtain ⟨he, rfl⟩ | ⟨w, i, rfl, hw, hexec⟩ | ⟨w, rfl, -, rfl⟩ | ⟨w, rfl, -, rfl⟩ := hcases
  · exact .inl ⟨he, rfl⟩
  · obtain ⟨ha, rfl⟩ | ⟨c, -, rfl⟩ := exec_cases hexec
    · exact .inr (.inl ⟨i, by rw [encode_of_decode hw], ha, rfl⟩)
    · exact .inr (.inr ⟨w, c, rfl, rfl⟩)
  · exact .inr (.inr ⟨w, _, rfl, rfl⟩)
  · exact .inr (.inr ⟨w, _, rfl, rfl⟩)

/-! ### What DEC_DATA leaves unchanged -/

@[simp] theorem recvPayload_mode (b : Byte) (s : State) : (recvPayload b s).mode = s.mode := by
  unfold recvPayload; split <;> rfl
@[simp] theorem recvPayload_phase (b : Byte) (s : State) : (recvPayload b s).phase = s.phase := by
  unfold recvPayload; split <;> rfl
@[simp] theorem recvPayload_res (b : Byte) (s : State) : (recvPayload b s).res = s.res := by
  unfold recvPayload; split <;> rfl
@[simp] theorem recvPayload_ovf (b : Byte) (s : State) : (recvPayload b s).ovf = s.ovf := by
  unfold recvPayload; split <;> rfl
@[simp] theorem recvPayload_err (b : Byte) (s : State) : (recvPayload b s).err = s.err := by
  unfold recvPayload; split <;> rfl
@[simp] theorem recvPayload_errcode (b : Byte) (s : State) : (recvPayload b s).errcode = s.errcode := by
  unfold recvPayload; split <;> rfl
@[simp] theorem recvPayload_port (b : Byte) (s : State) : (recvPayload b s).port = s.port := by
  unfold recvPayload; split <;> rfl
@[simp] theorem recvPayload_responses (b : Byte) (s : State) : (recvPayload b s).responses = s.responses := by
  unfold recvPayload; split <;> rfl
@[simp] theorem recvPayload_resets (b : Byte) (s : State) : (recvPayload b s).resets = s.resets := by
  unfold recvPayload; split <;> rfl

@[simp] theorem recvByte_mode (b : Byte) (s : State) : (recvByte b s).mode = s.mode := recvPayload_mode b s
@[simp] theorem recvByte_phase (b : Byte) (s : State) : (recvByte b s).phase = s.phase := recvPayload_phase b s
@[simp] theorem recvByte_cnt (b : Byte) (s : State) : (recvByte b s).cnt = s.cnt + 1 := rfl
@[simp] theorem recvByte_res (b : Byte) (s : State) : (recvByte b s).res = s.res := recvPayload_res b s
@[simp] theorem recvByte_ovf (b : Byte) (s : State) : (recvByte b s).ovf = s.ovf := recvPayload_ovf b s
@[simp] theorem recvByte_err (b : Byte) (s : State) : (recvByte b s).err = s.err := recvPayload_err b s
@[simp] theorem recvByte_errcode (b : Byte) (s : State) : (recvByte b s).errcode = s.errcode := recvPayload_errcode b s
@[simp] theorem recvByte_pbuf (b : Byte) (s : State) : (recvByte b s).pbuf = (recvPayload b s).pbuf := rfl
@[simp] theorem recvByte_port (b : Byte) (s : State) : (recvByte b s).port = s.port := recvPayload_port b s
@[simp] theorem recvByte_responses (b : Byte) (s : State) : (recvByte b s).responses = s.responses :=
  recvPayload_responses b s
@[simp] theorem recvByte_resets (b : Byte) (s : State) : (recvByte b s).resets = s.resets := recvPayload_resets b s

section DecData
variable (b : Byte) {s : State}

theorem executed_decData_full (hfull : s.cnt.toNat = Config.remLen s.mode) :
    executed (.decData b) s = accept { s with ovf := true } := by
  rw [executed, if_pos hfull]

theorem executed_decData_room (hroom : s.cnt.toNat ≠ Config.remLen s.mode) :
    executed (.decData b) s = accept (recvByte b s) := by
  rw [executed, if_neg hroom]

end DecData

/-! ### The response -/

/-- An executed command is answered RERR = 0 (30_encoding R78). -/
theorem executed_responses (i : Instr) (s : State) :
    ∃ v, (executed i s).responses = s.responses ++ [⟨v, false⟩] := by
  cases i
  case decData b =>
    by_cases hfull : s.cnt.toNat = Config.remLen s.mode
    · exact ⟨_, by rw [executed_decData_full b hfull]; rfl⟩
    · exact ⟨_, by rw [executed_decData_room b hfull, accept_responses, recvByte_responses]⟩
  case encEnd => exact ⟨0x0000#16, by simp [executed]⟩
  all_goals exact ⟨_, rfl⟩

theorem answeredOk_iff_accepts {i : Instr} {s : State} : answeredOk i s ↔ accepts i s := by
  constructor
  · rintro ⟨t, v, hexec, hresp⟩
    obtain ⟨ha, -⟩ | ⟨c, -, rfl⟩ := exec_cases hexec
    · exact ha
    · simp at hresp
  · intro ha
    obtain ⟨v, hv⟩ := executed_responses i s
    exact ⟨_, v, exec_of_accepts ha, hv⟩

/-- A word answered RERR = 1 was refused, and RDATA is the cause (60 R231). -/
theorem refused_of_rerr {s t : State} {w v : Word} {rest : List PortEvent} (hport : s.port = .command w :: rest)
    (h : step s = .next t) (hresp : t.responses = s.responses ++ [⟨v, true⟩]) :
    ∃ c : Cause, v = c.code.setWidth 16 ∧ t = raiseRefusal c { s with port := rest } := by
  obtain ⟨he, -⟩ | ⟨i, -, -, rfl⟩ | ⟨-, c, -, rfl⟩ := step_cases hport h
  · cases he
  · obtain ⟨u, hu⟩ := executed_responses i { s with port := rest }
    simp [hresp] at hu
  · exact ⟨c, by simpa using hresp.symm, rfl⟩

end Sys2Proof.Machine
end

section
/-! The registers: which commands write which of them, and what that says of PHASE, MODE, OVF, ERR and ERRCODE
(10_state R20, R23, R28 to R32). -/

namespace Sys2Proof.Machine

/-! ### The register frame -/

/-- No register is the port. -/
theorem sameReg_withPort {r : Reg} {s t : State} {rest : List PortEvent} :
    sameReg r { s with port := rest } t ↔ sameReg r s t := by
  cases r <;> rfl

/-- The column "written by command" of 10_state R20. -/
theorem executed_sameReg (i : Instr) (s : State) {r : Reg} (hr : r ∉ writtenBy i) : sameReg r s (executed i s) := by
  cases i
  case encEnd => cases r <;> simp_all [writtenBy, sameReg, executed]
  case decData b =>
    by_cases hfull : s.cnt.toNat = Config.remLen s.mode
    · rw [executed_decData_full b hfull]
      cases r <;> simp_all [writtenBy, sameReg]
    · rw [executed_decData_room b hfull]
      cases r <;> simp_all [writtenBy, sameReg]
  all_goals cases r <;> simp [writtenBy] at hr <;> rfl

/-- A refusal writes ERR and ERRCODE only (60 R231). -/
theorem raiseRefusal_sameReg (c : Cause) (s : State) {r : Reg} (herr : r ≠ .err) (hcode : r ≠ .errcode) :
    sameReg r s (raiseRefusal c s) := by
  cases r
  case err => exact absurd rfl herr
  case errcode => exact absurd rfl hcode
  all_goals rfl

/-- A register that executing a command changes is one the command lists. -/
theorem mem_writtenBy_of_changed {i : Instr} {s : State} {rest : List PortEvent} {r : Reg}
    (hchanged : ¬ sameReg r s (executed i { s with port := rest })) : r ∈ writtenBy i := by
  by_contra hr
  exact hchanged (sameReg_withPort.mp (executed_sameReg i _ hr))

/-- A register other than ERR and ERRCODE changes by a reset, or by an accepted command that lists it. -/
theorem step_of_changed {s t : State} {e : PortEvent} {rest : List PortEvent} {r : Reg} (hport : s.port = e :: rest)
    (h : step s = .next t) (hchanged : ¬ sameReg r s t) (herr : r ≠ .err) (hcode : r ≠ .errcode) :
    (e = .reset ∧ t = resetBlock { s with port := rest }) ∨
    (∃ i, e = .command (encode i) ∧ r ∈ writtenBy i ∧ accepts i { s with port := rest } ∧
      t = executed i { s with port := rest }) := by
  obtain hreset | ⟨i, he, ha, rfl⟩ | ⟨w, c, -, rfl⟩ := step_cases hport h
  · exact .inl hreset
  · exact .inr ⟨i, he, mem_writtenBy_of_changed hchanged, ha, rfl⟩
  · exact absurd (sameReg_withPort.mp (raiseRefusal_sameReg c _ herr hcode)) hchanged

/-! The rows of the column, register by register. -/

theorem phase_mem_writtenBy {i : Instr} : .phase ∈ writtenBy i ↔
    i = .abort ∨ (∃ n, i = .encStart n) ∨ i = .encEnd ∨ i = .encPop ∨ i = .decStart ∨ i = .decEnd := by
  cases i <;> simp [writtenBy]

theorem mode_mem_writtenBy {i : Instr} : .mode ∈ writtenBy i ↔ ∃ m, i = .setMode m := by
  cases i <;> simp [writtenBy]

theorem ovf_mem_writtenBy {i : Instr} : .ovf ∈ writtenBy i ↔
    i = .abort ∨ (∃ n, i = .encStart n) ∨ i = .decStart ∨ (∃ b, i = .decData b) := by
  cases i <;> simp [writtenBy]

theorem err_mem_writtenBy {i : Instr} : .err ∈ writtenBy i ↔ i = .errClr := by
  cases i <;> simp [writtenBy]

theorem errcode_mem_writtenBy {i : Instr} : .errcode ∈ writtenBy i ↔ i = .errClr := by
  cases i <;> simp [writtenBy]

/-! ### The statements on single registers -/

/-- Settles O33: an accepted command is executed, any other refused, and each has its frame. -/
theorem registersChangeOnlyAsListed : Obligations.RegistersChangeOnlyAsListed := by
  intro i s t hexec
  obtain ⟨ha, rfl⟩ | ⟨c, hc, rfl⟩ := exec_cases hexec
  · exact ⟨fun _ _ hr => executed_sameReg i s hr, fun hna => absurd ha hna⟩
  · exact ⟨fun ha => absurd ha (not_accepts_of_refusalCause hc),
      fun _ _ herr hcode => raiseRefusal_sameReg c s herr hcode⟩

/-- Settles O41: of the six commands that list PHASE, each is accepted in the phase its transition leaves. -/
theorem phaseMovesOnlyAsListed : Obligations.PhaseMovesOnlyAsListed := by
  intro s t e rest hport h hmoved
  obtain ⟨he, rfl⟩ | ⟨i, he, hr, ha, rfl⟩ := step_of_changed (r := .phase) hport h hmoved nofun nofun
  · exact .inr <| .inr <| .inr <| .inr <| .inr ⟨rfl, .inr he⟩
  · obtain rfl | ⟨n, rfl⟩ | rfl | rfl | rfl | rfl := phase_mem_writtenBy.mp hr
    · exact .inr <| .inr <| .inr <| .inr <| .inr ⟨rfl, .inl he⟩
    · exact .inl ⟨phase_of_accepts ha rfl, rfl, n, he⟩
    · exact .inr <| .inl ⟨phase_of_accepts ha rfl, rfl, he⟩
    · have hout : s.phase = .encOut := phase_of_accepts ha rfl
      have hlast : s.cnt.toNat + 1 = Config.frameLen s.mode := by
        by_contra hne
        exact hmoved (by simp [executed, hne, hout])
      exact .inr <| .inr <| .inl ⟨hout, by simp [executed, hlast], he, hlast⟩
    · exact .inr <| .inr <| .inr <| .inl ⟨phase_of_accepts ha rfl, rfl, he⟩
    · exact .inr <| .inr <| .inr <| .inr <| .inl ⟨phase_of_accepts ha rfl, rfl, he⟩

/-- Settles O42: SET_MODE alone lists MODE, and it is accepted in IDLE only. -/
theorem modeChangesOnlyBySetModeInIdle : Obligations.ModeChangesOnlyBySetModeInIdle := by
  intro s t e rest hport h hmoved
  obtain ⟨he, rfl⟩ | ⟨i, he, hr, ha, rfl⟩ := step_of_changed (r := .mode) hport h hmoved nofun nofun
  · exact .inr ⟨he, rfl⟩
  · obtain ⟨m, rfl⟩ := mode_mem_writtenBy.mp hr
    exact .inl ⟨phase_of_accepts ha rfl, he⟩

/-! ### OVF -/

theorem executed_decData_ovf (b : Byte) (s : State) :
    (executed (.decData b) s).ovf = if s.cnt.toNat = Config.remLen s.mode then true else s.ovf := by
  split
  · rw [executed_decData_full b ‹_›]; rfl
  · rw [executed_decData_room b ‹_›]; exact recvByte_ovf b s

/-- The four commands that list OVF: three clear it, and DEC_DATA sets it exactly when the remainder is full. -/
theorem ovf_change {s t : State} {e : PortEvent} {rest : List PortEvent} (hport : s.port = e :: rest)
    (h : step s = .next t) (hchanged : t.ovf ≠ s.ovf) :
    (t.ovf = false ∧ (e = .command (encode .abort) ∨ e = .reset ∨
      (s.phase = .idle ∧ (e = .command (encode .decStart) ∨ ∃ n, e = .command (encode (.encStart n)))))) ∨
    (t.ovf = true ∧ s.phase = .decIn ∧ s.cnt.toNat = Config.remLen s.mode ∧
      ∃ b, e = .command (encode (.decData b))) := by
  obtain ⟨he, rfl⟩ | ⟨i, he, hr, ha, rfl⟩ := step_of_changed (r := .ovf) hport h hchanged nofun nofun
  · exact .inl ⟨rfl, .inr (.inl he)⟩
  · obtain rfl | ⟨n, rfl⟩ | rfl | ⟨b, rfl⟩ := ovf_mem_writtenBy.mp hr
    · exact .inl ⟨rfl, .inl he⟩
    · exact .inl ⟨rfl, .inr (.inr ⟨phase_of_accepts ha rfl, .inr ⟨n, he⟩⟩)⟩
    · exact .inl ⟨rfl, .inr (.inr ⟨phase_of_accepts ha rfl, .inl he⟩)⟩
    · by_cases hfull : s.cnt.toNat = Config.remLen s.mode
      · exact .inr ⟨(executed_decData_ovf b _).trans (if_pos hfull), phase_of_accepts ha rfl, hfull, b, he⟩
      · exact (hchanged ((executed_decData_ovf b _).trans (if_neg hfull))).elim

/-- Settles O43: `ovf_change` in its two directions, and the five commands named run in their phases. -/
theorem ovfIsSetAndClearedAsListed : Obligations.OvfIsSetAndClearedAsListed := by
  refine ⟨fun s t e rest hport h => ⟨fun hs ht => ?_, fun hs ht => ?_⟩, fun b s hphase hfull => ?_,
    fun s hphase n => ⟨?_, ?_⟩, fun s => ⟨_, rfl, rfl⟩, fun s hphase hovf => ?_, rfl⟩
  · obtain ⟨ht', -⟩ | ⟨-, hset⟩ := ovf_change hport h (by simp [hs, ht])
    · simp [ht] at ht'
    · exact hset
  · obtain ⟨-, hcleared⟩ | ⟨ht', -⟩ := ovf_change hport h (by simp [hs, ht])
    · exact hcleared
    · simp [ht] at ht'
  · exact ⟨_, exec_of_accepts (accepts_of_phase rfl rfl hphase), (executed_decData_ovf b s).trans (if_pos hfull)⟩
  · exact ⟨_, exec_of_accepts (accepts_of_phase rfl rfl hphase), rfl⟩
  · exact ⟨_, exec_of_accepts (accepts_of_phase rfl rfl hphase), rfl⟩
  · exact ⟨_, exec_of_accepts (accepts_of_phase rfl rfl hphase), by simp [executed, verdict, hovf]⟩

/-! ### ERR and ERRCODE -/

theorem Cause.code_inj {c d : Cause} (h : c.code.setWidth 16 = d.code.setWidth 16) : c = d := by
  revert h; cases c <;> cases d <;> decide

/-- Settles O44: a refusal sets ERR, ERR_CLR alone lists it, and the acceptance matrix does not look at it. -/
theorem errIsSticky : Obligations.ErrIsSticky := by
  refine ⟨fun s t w rest v hport h hresp => ?_, fun s t e rest hport h hs ht => ?_,
    fun s => ⟨⟨_, rfl, rfl⟩, rfl⟩, fun i s e => ?_, rfl⟩
  · obtain ⟨c, -, rfl⟩ := refused_of_rerr hport h hresp
    rfl
  · obtain ⟨he, -⟩ | ⟨i, he, -, rfl⟩ | ⟨w, c, -, rfl⟩ := step_cases hport h
    · exact .inr he
    · have hchanged : ¬ sameReg .err s (executed i { s with port := rest }) := fun hsame =>
        nomatch ht.symm.trans (Eq.trans hsame hs)
      obtain rfl := err_mem_writtenBy.mp (mem_writtenBy_of_changed hchanged)
      exact .inl he
    · simp at ht
  · rw [answeredOk_iff_accepts, answeredOk_iff_accepts]
    rfl

theorem errcodeAfter_ne_none {err : Bool} {old : Option Cause} (c : Cause) (hold : old = none ↔ err = false) :
    errcodeAfter err old c ≠ none := by
  cases err <;> simp_all [errcodeAfter]

theorem errConsistent_raiseRefusal (c : Cause) {s : State} (h : s.errConsistent) :
    (raiseRefusal c s).errConsistent := by
  simp [State.errConsistent, errcodeAfter_ne_none c h]

/-- Only ERR_CLR writes ERR or ERRCODE, and it clears both. -/
theorem errConsistent_executed (i : Instr) {s : State} (h : s.errConsistent) : (executed i s).errConsistent := by
  by_cases hi : i = .errClr
  · subst hi
    exact iff_of_true rfl rfl
  · have herr : (executed i s).err = s.err := executed_sameReg (r := .err) i s (hi ∘ err_mem_writtenBy.mp)
    have hcode : (executed i s).errcode = s.errcode :=
      executed_sameReg (r := .errcode) i s (hi ∘ errcode_mem_writtenBy.mp)
    rw [State.errConsistent, herr, hcode]
    exact h

theorem errConsistent_step {s t : State} (hs : s.errConsistent) (h : step s = .next t) : t.errConsistent := by
  obtain ⟨e, rest, hport, -⟩ := step_next_cases h
  obtain ⟨-, rfl⟩ | ⟨i, -, -, rfl⟩ | ⟨w, c, -, rfl⟩ := step_cases hport h
  · exact iff_of_true rfl rfl
  · exact errConsistent_executed i hs
  · exact errConsistent_raiseRefusal c hs

/-- Settles O45: RDATA names the cause, which a refusal keeps only if ERR was 0. -/
theorem errcodeKeepsTheFirstCause : Obligations.ErrcodeKeepsTheFirstCause := by
  refine ⟨fun s t w rest c hport h hresp => ?_, fun s => ⟨⟨_, rfl, rfl⟩, rfl⟩, fun s t => errConsistent_step, rfl, rfl⟩
  obtain ⟨d, hcode, rfl⟩ := refused_of_rerr hport h hresp
  obtain rfl := Cause.code_inj hcode
  simp +contextual [errcodeAfter]

/-- Settles O8: the fields of `State.reset`, and their codes put together. -/
theorem resetLeavesTheListedValues : Obligations.ResetLeavesTheListedValues := by
  refine ⟨rfl, rfl, rfl, rfl, rfl, rfl, rfl, rfl, rfl, rfl, rfl, rfl, ?_⟩
  decide

end Sys2Proof.Machine
end

section
/-! The invariant of the block (10_state R40): what the current frame operation has loaded, and that every step keeps
it. -/

namespace Sys2Proof.Machine

/-! ### The bytes loaded -/

/-- The first `k` bytes of PBUF have been written since reset, and the accumulators hold their CRC and their sum. -/
structure State.Tracks (s : State) (k : Nat) : Prop where
  crc : s.crc = crc16 (s.payload k)
  sum : s.sum = checksum8 (s.payload k)
  fill : s.filled k

theorem tracks_zero {s : State} (hcrc : s.crc = Config.crcInit) (hsum : s.sum = 0x00#8) : s.Tracks 0 :=
  ⟨hcrc, hsum, fun _ hi => absurd hi (Nat.not_lt_zero _)⟩

/-- A byte stored behind the loaded ones and fed to both accumulators is loaded. -/
theorem State.Tracks.feed_storeBuf {s : State} {k : Nat} (h : s.Tracks k) (hk : k < 128) (b : Byte) :
    (feed b (storeBuf (bufAddr k) b s)).Tracks (k + 1) where
  crc := by
    rw [feed_crc, storeBuf_crc, h.crc, ← crc16_snoc]
    exact congrArg crc16 (payload_storeBuf s hk b).symm
  sum := by
    rw [feed_sum, storeBuf_sum, h.sum, ← checksum8_snoc]
    exact congrArg checksum8 (payload_storeBuf s hk b).symm
  fill := by
    intro i hi
    rw [feed_pbuf, storeBuf_pbuf, bufAddr_toNat hk]
    by_cases hik : i = k
    · rw [hik, get?_write_same]
      exact Option.some_ne_none b
    · rw [get?_write_other _ b hik]
      exact h.fill i (by omega)

/-- The loop of ENC_END loads its pad bytes one by one (42 R134). -/
theorem State.Tracks.padFrom {n : Nat} : ∀ {i : Nat} {s : State}, s.Tracks i → i + n ≤ 128 →
    (padFrom i n s).Tracks (i + n) := by
  induction n with
  | zero => intro i s h _; exact h
  | succ n ih =>
    intro i s h hn
    have hpadded := ih (h.feed_storeBuf (by omega) Config.pad) (by omega)
    rwa [Nat.add_right_comm] at hpadded

/-- DEC_DATA loads its byte at positions 2 to 129 and none elsewhere (43 R152). -/
theorem State.Tracks.recvByte {s : State} (h : s.Tracks (min s.cnt.toNat 130 - 2)) (b : Byte) :
    (recvByte b s).Tracks (min (s.cnt.toNat + 1) 130 - 2) := by
  have hpayload : (recvPayload b s).Tracks (min (s.cnt.toNat + 1) 130 - 2) := by
    unfold recvPayload recvStores
    split
    · rename_i hstores
      have hpos : 2 ≤ s.cnt.toNat ∧ s.cnt.toNat ≤ 129 := of_decide_eq_true hstores
      have hnext : min (s.cnt.toNat + 1) 130 - 2 = min s.cnt.toNat 130 - 2 + 1 := by omega
      have haddr : min s.cnt.toNat 130 - 2 = s.cnt.toNat - 2 := by omega
      rw [hnext]
      rw [haddr] at h ⊢
      exact h.feed_storeBuf (by omega) b
    · rename_i hstores
      have hpos : ¬ (2 ≤ s.cnt.toNat ∧ s.cnt.toNat ≤ 129) := fun hp => hstores (decide_eq_true hp)
      have hsame : min (s.cnt.toNat + 1) 130 - 2 = min s.cnt.toNat 130 - 2 := by omega
      rwa [hsame]
  exact ⟨hpayload.crc, hpayload.sum, hpayload.fill⟩

/-! ### What the invariant says in each phase -/

section Phases
variable {s : State}

/-- In IDLE it says nothing of CNT, OVF and the accumulators. -/
theorem inv_iff_of_idle (hp : s.phase = .idle) : s.Inv ↔ s.errConsistent ∧ Memory.wf s.pbuf = true where
  mp h := ⟨h.err, h.mem⟩
  mpr h :=
    { cnt := by simp [State.cntInRange, hp]
      ovf := fun _ => .inr hp
      err := h.1
      acc := fun hne => absurd hp hne
      mem := h.2
      fill := by simp [State.filled, State.loaded, hp] }

theorem inv_iff_of_ne_idle (hp : s.phase ≠ .idle) : s.Inv ↔
    s.errConsistent ∧ Memory.wf s.pbuf = true ∧ s.ovfExplained ∧ s.cntInRange ∧ s.Tracks s.loaded where
  mp h := ⟨h.err, h.mem, h.ovf, h.cnt, (h.acc hp).1, (h.acc hp).2, h.fill⟩
  mpr h := by
    obtain ⟨herr, hmem, hovf, hcnt, htracks⟩ := h
    exact ⟨hcnt, hovf, herr, fun _ => ⟨htracks.crc, htracks.sum⟩, hmem, htracks.fill⟩

theorem inv_iff_of_encFill (hp : s.phase = .encFill) : s.Inv ↔
    s.errConsistent ∧ Memory.wf s.pbuf = true ∧ s.ovf = false ∧ s.cnt.toNat ≤ 128 ∧ s.Tracks s.cnt.toNat := by
  rw [inv_iff_of_ne_idle (by simp [hp])]
  simp [State.ovfExplained, State.cntInRange, State.loaded, hp, Config.payloadLen]

theorem inv_iff_of_encOut (hp : s.phase = .encOut) : s.Inv ↔
    s.errConsistent ∧ Memory.wf s.pbuf = true ∧ s.ovf = false ∧ s.cnt.toNat + 1 ≤ Config.frameLen s.mode ∧
      s.Tracks 128 := by
  rw [inv_iff_of_ne_idle (by simp [hp])]
  simp [State.ovfExplained, State.cntInRange, State.loaded, hp, Config.payloadLen]

theorem inv_iff_of_decIn (hp : s.phase = .decIn) : s.Inv ↔
    s.errConsistent ∧ Memory.wf s.pbuf = true ∧ (s.ovf = true → s.cnt.toNat = Config.remLen s.mode) ∧
      s.cnt.toNat ≤ Config.remLen s.mode ∧ s.Tracks (min s.cnt.toNat 130 - 2) := by
  rw [inv_iff_of_ne_idle (by simp [hp])]
  simp [State.ovfExplained, State.cntInRange, State.loaded, hp]

end Phases

/-! ### What the invariant does not look at -/

theorem State.Inv.respond {s : State} (h : s.Inv) (v : Word) : (respond v s).Inv :=
  ⟨h.cnt, h.ovf, h.err, h.acc, h.mem, h.fill⟩

theorem State.Inv.withPort {s : State} (h : s.Inv) (rest : List PortEvent) : State.Inv { s with port := rest } :=
  ⟨h.cnt, h.ovf, h.err, h.acc, h.mem, h.fill⟩

theorem State.Inv.raiseRefusal {s : State} (h : s.Inv) (c : Cause) : (raiseRefusal c s).Inv :=
  ⟨h.cnt, h.ovf, errConsistent_raiseRefusal c h.err, h.acc, h.mem, h.fill⟩

theorem inv_resetBlock (s : State) : (resetBlock s).Inv :=
  (inv_iff_of_idle rfl).mpr ⟨iff_of_true rfl rfl, rfl⟩

/-! ### Every executed command keeps it -/

theorem wf_recvPayload (b : Byte) {s : State} (h : Memory.wf s.pbuf = true) :
    Memory.wf (recvPayload b s).pbuf = true := by
  unfold recvPayload
  split
  · exact wf_storeBuf _ b s h
  · exact h

/-- No command forms an address outside 0 to 127 (20_memory R56). -/
theorem wf_executed (i : Instr) {s : State} (h : Memory.wf s.pbuf = true) : Memory.wf (executed i s).pbuf = true := by
  cases i
  case encData b => exact wf_storeBuf _ b s h
  case encEnd => exact wf_padFrom _ _ s h
  case decData b =>
    by_cases hfull : s.cnt.toNat = Config.remLen s.mode
    · rw [executed_decData_full b hfull]; exact h
    · rw [executed_decData_room b hfull]; exact wf_recvPayload b h
  all_goals exact h

theorem frameLen_le (m : Mode) : Config.frameLen m ≤ 133 := by
  cases m <;> decide

theorem remLen_le (m : Mode) : Config.remLen m ≤ 132 := by
  cases m <;> decide

/-- A byte below its largest value does not wrap. -/
theorem toNat_add_one {c : Byte} (h : c.toNat < 255) : (c + 1).toNat = c.toNat + 1 :=
  Nat.mod_eq_of_lt (Nat.succ_lt_succ h)

/-! One lemma for each command that begins, carries on or ends a frame operation. -/

section Frame
variable {s : State} (h : s.Inv)
include h

/-- A command that leaves the block in IDLE has nothing more to show. -/
theorem inv_executed_of_idle {i : Instr} (hidle : (executed i s).phase = .idle) : (executed i s).Inv :=
  (inv_iff_of_idle hidle).mpr ⟨errConsistent_executed i h.err, wf_executed i h.mem⟩

theorem inv_executed_encStart (n : Byte) : (executed (.encStart n) s).Inv :=
  (inv_iff_of_encFill rfl).mpr
    ⟨errConsistent_executed (.encStart n) h.err, h.mem, rfl, Nat.zero_le _, tracks_zero rfl rfl⟩

theorem inv_executed_encData {b : Byte} (ha : accepts (.encData b) s) : (executed (.encData b) s).Inv := by
  have hphase : s.phase = .encFill := phase_of_accepts ha rfl
  have hroom : s.cnt.toNat < 128 := room_of_accepts ha
  obtain ⟨herr, hmem, hovf, -, htracks⟩ := (inv_iff_of_encFill hphase).mp h
  have hcnt : (executed (.encData b) s).cnt.toNat = s.cnt.toNat + 1 := toNat_add_one (by omega)
  have hnext := htracks.feed_storeBuf hroom b
  refine (inv_iff_of_encFill (s := executed (.encData b) s) hphase).mpr
    ⟨errConsistent_executed _ herr, wf_executed _ hmem, hovf, by omega, ?_⟩
  rw [hcnt]
  exact ⟨hnext.crc, hnext.sum, hnext.fill⟩

theorem inv_executed_encEnd (ha : accepts .encEnd s) : (executed .encEnd s).Inv := by
  obtain ⟨herr, hmem, hovf, hcnt, htracks⟩ := (inv_iff_of_encFill (phase_of_accepts ha rfl)).mp h
  have hpadded := htracks.padFrom (n := 128 - s.cnt.toNat) (by omega)
  rw [show s.cnt.toNat + (128 - s.cnt.toNat) = 128 by omega] at hpadded
  refine (inv_iff_of_encOut rfl).mpr
    ⟨errConsistent_executed _ herr, wf_executed _ hmem, by simpa [executed] using hovf, ?_,
      hpadded.crc, hpadded.sum, hpadded.fill⟩
  show 0 + 1 ≤ Config.frameLen _
  simp only [Config.frameLen, Config.payloadLen]
  omega

theorem inv_executed_encPop (ha : accepts .encPop s) : (executed .encPop s).Inv := by
  obtain ⟨herr, hmem, hovf, hcnt, htracks⟩ := (inv_iff_of_encOut (phase_of_accepts ha rfl)).mp h
  by_cases hlast : s.cnt.toNat + 1 = Config.frameLen s.mode
  · exact inv_executed_of_idle h (by simp [executed, hlast])
  · have hframe := frameLen_le s.mode
    have hnext : (s.cnt + 1).toNat = s.cnt.toNat + 1 := toNat_add_one (by omega)
    refine (inv_iff_of_encOut (by simp [executed, hlast])).mpr
      ⟨errConsistent_executed _ herr, hmem, hovf, ?_, htracks.crc, htracks.sum, htracks.fill⟩
    show (s.cnt + 1).toNat + 1 ≤ Config.frameLen s.mode
    omega

theorem inv_executed_decStart : (executed .decStart s).Inv :=
  (inv_iff_of_decIn rfl).mpr
    ⟨errConsistent_executed .decStart h.err, h.mem, nofun, Nat.zero_le _, tracks_zero rfl rfl⟩

theorem inv_executed_decData {b : Byte} (ha : accepts (.decData b) s) : (executed (.decData b) s).Inv := by
  have hphase : s.phase = .decIn := phase_of_accepts ha rfl
  obtain ⟨herr, hmem, hovf, hcnt, htracks⟩ := (inv_iff_of_decIn hphase).mp h
  by_cases hfull : s.cnt.toNat = Config.remLen s.mode
  · rw [executed_decData_full b hfull]
    exact (inv_iff_of_decIn (s := accept { s with ovf := true }) hphase).mpr
      ⟨herr, hmem, fun _ => hfull, hcnt, htracks.crc, htracks.sum, htracks.fill⟩
  · rw [executed_decData_room b hfull]
    have hrem := remLen_le s.mode
    have hnext : (recvByte b s).cnt.toNat = s.cnt.toNat + 1 := toNat_add_one (by omega)
    have hreceived := htracks.recvByte b
    rw [← hnext] at hreceived
    refine State.Inv.respond ((inv_iff_of_decIn ((recvByte_phase b s).trans hphase)).mpr
      ⟨?_, wf_recvPayload b hmem, ?_, ?_, hreceived⟩) _
    · rwa [State.errConsistent, recvByte_err, recvByte_errcode]
    · rw [recvByte_ovf]
      exact fun ho => absurd (hovf ho) hfull
    · rw [hnext, recvByte_mode]
      omega

end Frame

theorem State.Inv.executed {s : State} (h : s.Inv) {i : Instr} (ha : accepts i s) : (executed i s).Inv := by
  cases i
  -- the commands that only answer
  case nop | statusRd | bufRd | sumRd | crcRd | decBlkRd => exact h.respond _
  case errClr => exact ⟨h.cnt, h.ovf, iff_of_true rfl rfl, h.acc, h.mem, h.fill⟩
  -- the commands that stay in IDLE or return to it
  case abort | decEnd => exact inv_executed_of_idle h rfl
  case setMode | sumClr | sumByte | crcClr | crcByte => exact inv_executed_of_idle h (phase_of_accepts ha rfl)
  -- the frame operations
  case encStart n => exact inv_executed_encStart h n
  case encData b => exact inv_executed_encData h ha
  case encEnd => exact inv_executed_encEnd h ha
  case encPop => exact inv_executed_encPop h ha
  case decStart => exact inv_executed_decStart h
  case decData b => exact inv_executed_decData h ha

/-- Settles O37: a reset gives IDLE, a refusal touches only the record, and every executed command keeps it. -/
theorem everyStepKeepsTheInvariant : Obligations.EveryStepKeepsTheInvariant := by
  intro s t hinv h
  obtain ⟨e, rest, hport, -⟩ := step_next_cases h
  obtain ⟨-, rfl⟩ | ⟨i, -, ha, rfl⟩ | ⟨w, c, -, rfl⟩ := step_cases hport h
  · exact inv_resetBlock _
  · exact (hinv.withPort rest).executed ha
  · exact (hinv.withPort rest).raiseRefusal c

/-- Settles O38. -/
theorem invariantHoldsAtReset : Obligations.InvariantHoldsAtReset :=
  (inv_iff_of_idle rfl).mpr ⟨iff_of_true rfl rfl, rfl⟩

/-! ### The invariant in the spec's numbers -/

/-- REM_LEN(MODE), and FRAME_LEN(MODE) - 1, in numbers (00_scope R7). -/
theorem remLen_eq (m : Mode) : Config.remLen m = if m = .checksum then 131 else 132 := by
  cases m <;> rfl

theorem cnt_mem_writtenBy {i : Instr} : .cnt ∈ writtenBy i ↔
    (∃ n, i = .encStart n) ∨ (∃ b, i = .encData b) ∨ i = .encEnd ∨ i = .encPop ∨ i = .decStart ∨
      (∃ b, i = .decData b) := by
  cases i <;> simp [writtenBy]

/-- A command that changes CNT clears it, or advances it inside a frame operation. -/
theorem executed_cnt_of_changed {i : Instr} {s : State} (ha : accepts i s) (hchanged : (executed i s).cnt ≠ s.cnt) :
    (executed i s).cnt = 0x00#8 ∨ (s.phase ≠ .idle ∧ (executed i s).cnt = s.cnt + 1) := by
  have hlisted : .cnt ∈ writtenBy i := mem_writtenBy_of_changed (rest := s.port) hchanged
  obtain ⟨n, rfl⟩ | ⟨b, rfl⟩ | rfl | rfl | rfl | ⟨b, rfl⟩ := cnt_mem_writtenBy.mp hlisted
  · exact .inl rfl
  · exact .inr ⟨by simp [phase_of_accepts ha rfl], rfl⟩
  · exact .inl rfl
  · exact .inr ⟨by simp [phase_of_accepts ha rfl], rfl⟩
  · exact .inl rfl
  · refine .inr ⟨by simp [phase_of_accepts ha rfl], ?_⟩
    by_cases hfull : s.cnt.toNat = Config.remLen s.mode
    · rw [executed_decData_full b hfull] at hchanged
      exact absurd rfl hchanged
    · rw [executed_decData_room b hfull]
      rfl

/-- Inside a frame operation CNT is below FRAME_LEN (10_state R40 (a) to (c)). -/
theorem State.Inv.cnt_lt {s : State} (h : s.Inv) (hp : s.phase ≠ .idle) : s.cnt.toNat ≤ 132 := by
  have hframe := frameLen_le s.mode
  have hrem := remLen_le s.mode
  cases hphase : s.phase with
  | idle => exact absurd hphase hp
  | encFill => obtain ⟨-, -, -, hcnt, -⟩ := (inv_iff_of_encFill hphase).mp h; omega
  | encOut => obtain ⟨-, -, -, hcnt, -⟩ := (inv_iff_of_encOut hphase).mp h; omega
  | decIn => obtain ⟨-, -, -, hcnt, -⟩ := (inv_iff_of_decIn hphase).mp h; omega

/-- 10_state R35: no command takes CNT above 133. -/
theorem State.Inv.exec_cnt_le {s t : State} (h : s.Inv) {i : Instr} (hexec : exec i s = .next t)
    (hchanged : t.cnt ≠ s.cnt) : t.cnt.toNat ≤ 133 := by
  obtain ⟨ha, rfl⟩ | ⟨c, -, rfl⟩ := exec_cases hexec
  · obtain hzero | ⟨hp, hnext⟩ := executed_cnt_of_changed ha hchanged
    · rw [hzero]
      decide
    · have hcnt := h.cnt_lt hp
      rw [hnext, toNat_add_one (by omega)]
      omega
  · exact absurd rfl hchanged

theorem errcodeBits_eq_zero {c : Option Cause} : errcodeBits c = 0#3 ↔ c = none := by
  cases c with
  | none => decide
  | some c => cases c <;> decide

theorem errcodeBits_le (c : Option Cause) : (errcodeBits c).toNat ≤ 4 := by
  cases c with
  | none => decide
  | some c => cases c <;> decide

theorem Verdict.code_le (v : Verdict) : v.code.toNat ≤ 4 := by
  cases v <;> decide

/-- Settles O40: the invariant phase by phase, with the lengths in numbers. -/
theorem invariantGivesTheSpecsBounds : Obligations.InvariantGivesTheSpecsBounds := by
  intro s h
  simp only [← remLen_eq]
  refine ⟨fun hp => ?_, fun hp => ?_, fun hp => ?_, fun hp _ => ?_, h.ovf, errcodeBits_eq_zero.trans h.err,
    Verdict.code_le _, errcodeBits_le _, fun i t => h.exec_cnt_le⟩
  · obtain ⟨-, -, -, hcnt, htracks⟩ := (inv_iff_of_encFill hp).mp h
    exact ⟨hcnt, htracks.crc, htracks.sum⟩
  · obtain ⟨-, -, -, hcnt, htracks⟩ := (inv_iff_of_encOut hp).mp h
    exact ⟨Nat.le_sub_of_add_le hcnt, htracks.crc, htracks.sum⟩
  · obtain ⟨-, -, -, hcnt, -⟩ := (inv_iff_of_decIn hp).mp h
    exact hcnt
  · obtain ⟨-, -, -, -, htracks⟩ := (inv_iff_of_decIn hp).mp h
    exact ⟨htracks.crc, htracks.sum⟩

end Sys2Proof.Machine
end

section
/-! The payload buffer: what each command leaves in it, byte by byte (20_memory R51), and that every step keeps its
canonical form. -/

namespace Sys2Proof.Machine

/-! ### What the buffer reads as after a store -/

theorem readBuf_storeBuf (a' : Addr) (b : Byte) (s : State) (a : Addr) :
    (storeBuf a' b s).readBuf a = if a = a' then b else s.readBuf a := by
  split_ifs with h
  · rw [h, readBuf_storeBuf_same]
  · exact readBuf_storeBuf_other b s h

/-- The loop of ENC_END stores the pad byte at `i` to `i + n - 1` and nowhere else; it stays below 128, and from
`i` = 128 on it does nothing (42 R134). -/
theorem readBuf_padFrom {n : Nat} (a : Addr) : ∀ {i : Nat} (s : State), n ≤ 128 - i →
    (padFrom i n s).readBuf a = if i ≤ a.toNat ∧ a.toNat < i + n then Config.pad else s.readBuf a := by
  induction n with
  | zero => intro i s _; exact (if_neg (by omega)).symm
  | succ n ih =>
    intro i s hn
    have haddr : a = bufAddr i ↔ a.toNat = i := by rw [← BitVec.toNat_inj, bufAddr_toNat (by omega)]
    rw [padFrom, ih _ (by omega), readBuf_feed, readBuf_storeBuf]
    by_cases hhere : a.toNat = i
    · rw [if_pos (haddr.mpr hhere), ite_self, if_pos (by omega)]
    · rw [if_neg (haddr.not.mpr hhere)]
      exact if_congr (by omega) rfl rfl

theorem recvStores_iff {cnt : Byte} : recvStores cnt = true ↔ 2 ≤ cnt.toNat ∧ cnt.toNat ≤ 129 :=
  decide_eq_true_iff

theorem readBuf_recvPayload (b : Byte) (s : State) (a : Addr) : (recvPayload b s).readBuf a =
    if recvStores s.cnt = true then (if a = recvAddr s.cnt then b else s.readBuf a) else s.readBuf a := by
  unfold recvPayload
  split
  · rw [readBuf_feed, readBuf_storeBuf]
  · rfl

/-! ### A command that is accepted -/

theorem exec_next_of_accepts {i : Instr} {s t : State} (ha : accepts i s) (hexec : exec i s = .next t) :
    t = executed i s :=
  Host.Outcome.next.inj (hexec.symm.trans (exec_of_accepts ha))

theorem accepts_encData {b : Byte} {s : State} (hphase : s.phase = .encFill) (hroom : s.cnt.toNat < 128) :
    accepts (.encData b) s :=
  accepts_iff.mpr ⟨fun _ hp => hphase.trans (Option.some.inj hp), fun _ => hroom⟩

/-! ### What the buffer reads as after a command -/

theorem readBuf_executed_encData (b : Byte) (s : State) (a : Addr) :
    (executed (.encData b) s).readBuf a = if a = fillAddr s.cnt then b else s.readBuf a :=
  readBuf_storeBuf (fillAddr s.cnt) b s a

/-- The loop runs from CNT to 127, which is every address from CNT on. -/
theorem readBuf_executed_encEnd (s : State) (a : Addr) :
    (executed .encEnd s).readBuf a = if s.cnt.toNat ≤ a.toNat then Config.pad else s.readBuf a := by
  have haddr := addr_lt a
  refine (readBuf_padFrom a s (Nat.le_refl _)).trans (if_congr ?_ rfl rfl)
  omega

/-- An excess byte comes at a position where no byte is stored (43 R152). -/
theorem recvStores_of_full {s : State} (hfull : s.cnt.toNat = Config.remLen s.mode) : recvStores s.cnt = false := by
  rw [← Bool.not_eq_true, recvStores_iff, hfull, remLen_eq]
  split <;> decide

theorem readBuf_executed_decData (b : Byte) (s : State) (a : Addr) : (executed (.decData b) s).readBuf a =
    if recvStores s.cnt = true then (if a = recvAddr s.cnt then b else s.readBuf a) else s.readBuf a := by
  by_cases hfull : s.cnt.toNat = Config.remLen s.mode
  · rw [executed_decData_full b hfull, recvStores_of_full hfull]
    rfl
  · rw [executed_decData_room b hfull]
    exact readBuf_recvPayload b s a

/-- The seventeen commands that store nothing (20_memory R51). -/
theorem readBuf_executed_of_not_stores {i : Instr} (hi : storesToBuffer i = false) (s : State) (a : Addr) :
    (executed i s).readBuf a = s.readBuf a := by
  cases i
  case encData | encEnd | decData => cases hi
  all_goals rfl

/-! ### The statements -/

/-- Settles O34: a refusal does not touch PBUF, and a command that is executed is one of the seventeen. -/
theorem otherCommandsLeaveTheBuffer : Obligations.OtherCommandsLeaveTheBuffer := by
  intro i s t hexec hi a
  obtain ⟨ha, rfl⟩ | ⟨c, -, rfl⟩ := exec_cases hexec
  · exact readBuf_executed_of_not_stores (hi.resolve_right (not_not_intro ha)) s a
  · exact readBuf_raiseRefusal c s a

/-- Settles O35: in the phase and with the room named, both commands are executed. -/
theorem encoderStoresOnlyAtItsAddresses : Obligations.EncoderStoresOnlyAtItsAddresses := by
  refine ⟨fun b s t hphase hroom hexec => ?_, fun s t hphase hexec => ?_⟩
  · obtain rfl := exec_next_of_accepts (accepts_encData hphase hroom) hexec
    exact ⟨bufAddr_toNat hroom, readBuf_executed_encData b s⟩
  · obtain rfl := exec_next_of_accepts (accepts_of_phase rfl rfl hphase) hexec
    exact readBuf_executed_encEnd s

/-- Settles O36: DEC_DATA is executed in DEC_IN, and its one store is guarded by `recvStores`. -/
theorem decDataStoresAtItsAddress : Obligations.DecDataStoresAtItsAddress := by
  intro b s t hphase hexec
  obtain rfl := exec_next_of_accepts (accepts_of_phase rfl rfl hphase) hexec
  refine ⟨recvStores_iff, fun hstores => ⟨?_, fun a => ?_⟩, fun hnone a => ?_⟩
  · have hpos := recvStores_iff.mp hstores
    exact bufAddr_toNat (by omega)
  · rw [readBuf_executed_decData, if_pos hstores]
  · rw [readBuf_executed_decData, if_neg (by simp [hnone])]

/-- Settles O39: a reset empties the list, a refusal leaves it, and every command forms its addresses in 7 bits. -/
theorem everyStepKeepsTheBufferCanonical : Obligations.EveryStepKeepsTheBufferCanonical := by
  intro s t hwf h
  obtain ⟨e, rest, hport, -⟩ := step_next_cases h
  obtain ⟨-, rfl⟩ | ⟨i, -, -, rfl⟩ | ⟨w, c, -, rfl⟩ := step_cases hport h
  · rfl
  · exact wf_executed i hwf
  · exact hwf

end Sys2Proof.Machine
end

section
/-! The decoder by the rows of the opcode table: a word is a command exactly when its opcode is a row's and no bit that
row's format reserves is set (30_encoding R72 to R76, R79). -/

namespace Sys2Proof.Machine

/-! ### Words and their fields -/

theorem cmdWord_inj {op arg op' arg' : Byte} : cmdWord op arg = cmdWord op' arg' ↔ op = op' ∧ arg = arg' := by
  refine ⟨fun h => ⟨?_, ?_⟩, fun ⟨hop, harg⟩ => by rw [hop, harg]⟩
  · simpa using congrArg opField h
  · simpa using congrArg argField h

theorem and_0xFF (b : Byte) : b &&& 0xFF#8 = b := BitVec.and_allOnes

/-- A mask looks at the whole opcode and at the reserved bits of the argument (30_encoding R73 to R76). -/
theorem format_mask_eq (f : Format) : f.mask = cmdWord 0xFF#8 f.reservedArg := by
  cases f <;> rfl

/-! ### Rows -/

/-- The fields are a row's opcode and an argument with no bit set that the row's format reserves. -/
def FitsRow (op arg : Byte) (r : OpcodeRow) : Prop := op = r.op ∧ arg &&& r.format.reservedArg = 0x00#8

theorem matches_cmdWord_iff {r : OpcodeRow} {op arg : Byte} :
    r.matches (cmdWord op arg) = true ↔ FitsRow op arg r := by
  have hmask : cmdWord op arg &&& r.format.mask = cmdWord op (arg &&& r.format.reservedArg) := by
    rw [format_mask_eq, cmdWord, cmdWord, cmdWord, BitVec.and_append, and_0xFF]
  rw [OpcodeRow.matches, beq_iff_eq, hmask, OpcodeRow.matchWord, cmdWord_inj, FitsRow]

/-- The twenty opcodes differ, so a row is known by its opcode (30_encoding R72). -/
theorem row_eq_of_op_eq {r r' : OpcodeRow} (hr : r ∈ opcodeTable) (hr' : r' ∈ opcodeTable) (hop : r.op = r'.op) :
    r = r' :=
  have hnodup : (opcodeTable.map OpcodeRow.op).Nodup := by decide
  List.inj_on_of_nodup_map hnodup hr hr' hop

/-- A row with the opcode and a property exists exactly when the opcode has a row and the fact `q` about the word, which
says the property of that row, holds. -/
theorem exists_row_and_iff {op : Byte} {p : OpcodeRow → Prop} {q : Prop}
    (hrow : ∀ r ∈ opcodeTable, op = r.op → (p r ↔ q)) :
    (∃ r ∈ opcodeTable, op = r.op ∧ p r) ↔ (∃ r ∈ opcodeTable, op = r.op) ∧ q := by
  constructor
  · rintro ⟨r, hr, hop, hp⟩
    exact ⟨⟨r, hr, hop⟩, (hrow r hr hop).mp hp⟩
  · rintro ⟨⟨r, hr, hop⟩, hq⟩
    exact ⟨r, hr, hop, (hrow r hr hop).mpr hq⟩

/-! ### What a format makes of an argument -/

/-- `d` is a command when the argument has no bit that the format reserves, and a bad argument otherwise. -/
def ReadAs (f : Format) (arg : Byte) (d : Decoded) : Prop :=
  if arg &&& f.reservedArg = 0x00#8 then ∃ i, d = .instr i else d = .badArg

/-- A decoder of one format that tests a condition equivalent to "no reserved bit is set". -/
theorem ReadAs.of_iff {f : Format} {arg : Byte} {i : Instr} {c : Prop} [Decidable c]
    (hc : c ↔ arg &&& f.reservedArg = 0x00#8) : ReadAs f arg (if c then .instr i else .badArg) := by
  unfold ReadAs
  split_ifs with harg hcond
  · exact ⟨i, rfl⟩
  · exact absurd (hc.mpr harg) hcond
  · rename_i hcond
    exact absurd (hc.mp hcond) harg
  · rfl

theorem readAs_decodeN (arg : Byte) (i : Instr) : ReadAs .n arg (decodeN arg i) :=
  .of_iff (by rw [Format.reservedArg, and_0xFF])

theorem readAs_decodeB (arg : Byte) (mk : Byte → Instr) : ReadAs .b arg (decodeB arg mk) := by
  simp [ReadAs, Format.reservedArg, decodeB]

theorem readAs_decodeA (arg : Byte) (mk : Addr → Instr) : ReadAs .a arg (decodeA arg mk) :=
  .of_iff (by revert arg; decide)

theorem readAs_decodeM (arg : Byte) (mk : Mode → Instr) : ReadAs .m arg (decodeM arg mk) :=
  .of_iff (by revert arg; decide)

/-! ### The decoder, row by row -/

/-- Each of the twenty rows decodes by its own format, in the table's order (30_encoding R72). -/
theorem readAs_decodeFields (arg : Byte) : ∀ r ∈ opcodeTable, ReadAs r.format arg (decodeFields r.op arg) := by
  simp only [opcodeTable, controlRows, unitRows, framerRows, List.cons_append, List.nil_append, List.forall_mem_cons]
  exact
    -- control and status
    ⟨readAs_decodeN _ _, readAs_decodeN _ _, readAs_decodeN _ _, readAs_decodeM _ _, readAs_decodeN _ _,
     readAs_decodeA _ _,
     -- the two standalone units
     readAs_decodeN _ _, readAs_decodeB _ _, readAs_decodeN _ _,
     readAs_decodeN _ _, readAs_decodeB _ _, readAs_decodeN _ _,
     -- the framer
     readAs_decodeB _ _, readAs_decodeB _ _, readAs_decodeN _ _, readAs_decodeN _ _,
     readAs_decodeN _ _, readAs_decodeB _ _, readAs_decodeN _ _, readAs_decodeN _ _, List.forall_mem_nil _⟩

theorem decodeFields_of_no_row {op : Byte} (arg : Byte) (hop : ∀ r ∈ opcodeTable, op ≠ r.op) :
    decodeFields op arg = .illegalOpcode := by
  simp only [opcodeTable, controlRows, unitRows, framerRows, List.cons_append, List.nil_append, List.forall_mem_cons]
    at hop
  simp [decodeFields, hop]

/-- The three things a word can be, by the row of its opcode. -/
theorem decodeFields_cases (op arg : Byte) :
    ((∀ r ∈ opcodeTable, op ≠ r.op) ∧ decodeFields op arg = .illegalOpcode) ∨
    (∃ r ∈ opcodeTable, op = r.op ∧ arg &&& r.format.reservedArg ≠ 0x00#8 ∧ decodeFields op arg = .badArg) ∨
    (∃ r ∈ opcodeTable, FitsRow op arg r ∧ ∃ i, decodeFields op arg = .instr i) := by
  by_cases hrow : ∃ r ∈ opcodeTable, op = r.op
  · obtain ⟨r, hr, rfl⟩ := hrow
    have hread := readAs_decodeFields arg r hr
    unfold ReadAs at hread
    split_ifs at hread with harg
    · exact .inr (.inr ⟨r, hr, ⟨rfl, harg⟩, hread⟩)
    · exact .inr (.inl ⟨r, hr, rfl, harg, hread⟩)
  · have hnone : ∀ r ∈ opcodeTable, op ≠ r.op := fun r hr hop => hrow ⟨r, hr, hop⟩
    exact .inl ⟨hnone, decodeFields_of_no_row arg hnone⟩

section Fields
variable {op arg : Byte}

theorem decodeFields_eq_illegalOpcode_iff :
    decodeFields op arg = .illegalOpcode ↔ ¬ ∃ r ∈ opcodeTable, op = r.op := by
  obtain ⟨hnone, hd⟩ | ⟨r, hr, hop, -, hd⟩ | ⟨r, hr, ⟨hop, -⟩, i, hd⟩ := decodeFields_cases op arg
  · exact iff_of_true hd fun ⟨r, hr, hop⟩ => hnone r hr hop
  · exact iff_of_false (by simp [hd]) (not_not_intro ⟨r, hr, hop⟩)
  · exact iff_of_false (by simp [hd]) (not_not_intro ⟨r, hr, hop⟩)

theorem decodeFields_eq_badArg_iff :
    decodeFields op arg = .badArg ↔ ∃ r ∈ opcodeTable, op = r.op ∧ arg &&& r.format.reservedArg ≠ 0x00#8 := by
  obtain ⟨hnone, hd⟩ | ⟨r, hr, hop, harg, hd⟩ | ⟨r, hr, ⟨hop, harg⟩, i, hd⟩ := decodeFields_cases op arg
  · exact iff_of_false (by simp [hd]) fun ⟨r, hr, hop, _⟩ => hnone r hr hop
  · exact iff_of_true hd ⟨r, hr, hop, harg⟩
  · refine iff_of_false (by simp [hd]) fun ⟨r', hr', hop', harg'⟩ => ?_
    rw [row_eq_of_op_eq hr' hr (hop'.symm.trans hop)] at harg'
    exact harg' harg

theorem decodeFields_eq_instr_iff :
    (∃ i, decodeFields op arg = .instr i) ↔ ∃ r ∈ opcodeTable, FitsRow op arg r := by
  obtain ⟨hnone, hd⟩ | ⟨r, hr, hop, harg, hd⟩ | ⟨r, hr, hfits, hd⟩ := decodeFields_cases op arg
  · exact iff_of_false (by simp [hd]) fun ⟨r, hr, hop, _⟩ => hnone r hr hop
  · refine iff_of_false (by simp [hd]) fun ⟨r', hr', hop', harg'⟩ => ?_
    rw [row_eq_of_op_eq hr' hr (hop'.symm.trans hop)] at harg'
    exact harg harg'
  · exact iff_of_true hd ⟨r, hr, hfits⟩

/-- The check of a word's fields asks the same of the word as the decoder (30_encoding R79). -/
theorem wellFormedWord_cmdWord_iff :
    wellFormedWord (cmdWord op arg) = true ↔ ∃ r ∈ opcodeTable, FitsRow op arg r := by
  have hdefined : opcodeDefined (cmdWord op arg) = true ↔ ∃ r ∈ opcodeTable, op = r.op := by
    simp [opcodeDefined, eq_comm (a := op)]
  have hargs : reservedArgZero (cmdWord op arg) = true ↔
      ∀ r ∈ opcodeTable, op = r.op → arg &&& r.format.reservedArg = 0x00#8 := by
    simp [reservedArgZero, ← imp_iff_not_or, eq_comm (a := op)]
  rw [wellFormedWord, Bool.and_eq_true, hdefined, hargs]
  refine (exists_row_and_iff fun r hr hop => ⟨fun harg r' hr' hop' => ?_, fun h => h r hr hop⟩).symm
  rwa [row_eq_of_op_eq hr' hr (hop'.symm.trans hop)]

end Fields

/-- A word is a command exactly when it matches a row of the table (30_encoding R72). -/
theorem decode_eq_instr_iff_matches (w : Word) :
    (∃ i, decode w = .instr i) ↔ ∃ r ∈ opcodeTable, r.matches w = true := by
  rw [← cmdWord_opField_argField w, decode_cmdWord, decodeFields_eq_instr_iff]
  simp only [matches_cmdWord_iff]

/-- No word matches two rows (30_encoding R72). -/
theorem row_eq_of_matches {w : Word} {r r' : OpcodeRow} (hr : r ∈ opcodeTable) (hr' : r' ∈ opcodeTable)
    (hw : r.matches w = true) (hw' : r'.matches w = true) : r = r' := by
  rw [← cmdWord_opField_argField w, matches_cmdWord_iff] at hw hw'
  exact row_eq_of_op_eq hr hr' (hw.1.symm.trans hw'.1)

end Sys2Proof.Machine
end

section
/-! The list of the words that are commands, row by row, and how many they are (30_encoding R79). -/

namespace Sys2Proof.Machine

/-- The argument bytes that set no bit the format reserves. -/
def legalArgs (f : Format) : List Byte :=
  (FinEnum.toList Byte).filter fun arg => arg &&& f.reservedArg = 0x00#8

/-- The words of a row. -/
def rowWords (r : OpcodeRow) : List Word := (legalArgs r.format).map (cmdWord r.op)

/-- The words of all the rows. -/
def legalWords : List Word := opcodeTable.flatMap rowWords

theorem mem_rowWords_iff {r : OpcodeRow} {w : Word} : w ∈ rowWords r ↔ r.matches w = true := by
  rw [← cmdWord_opField_argField w, matches_cmdWord_iff, FitsRow, rowWords, List.mem_map]
  simp [legalArgs, cmdWord_inj, eq_comm, and_comm]

theorem mem_legalWords_iff {w : Word} : w ∈ legalWords ↔ ∃ i, decode w = .instr i := by
  simp [legalWords, mem_rowWords_iff, decode_eq_instr_iff_matches]

theorem nodup_rowWords (r : OpcodeRow) : (rowWords r).Nodup :=
  (FinEnum.nodup_toList.filter _).map fun _ _ h => (cmdWord_inj.mp h).2

theorem nodup_legalWords : legalWords.Nodup := by
  refine List.nodup_flatMap.mpr ⟨fun r _ => nodup_rowWords r, ?_⟩
  have hrows : opcodeTable.Nodup := by decide
  refine hrows.imp_of_mem fun {r r'} hr hr' hne w hw hw' => hne ?_
  exact row_eq_of_matches hr hr' (mem_rowWords_iff.mp hw) (mem_rowWords_iff.mp hw')

/-- One argument in format N, 256 in format B, 128 in format A and two in format M (30_encoding R73 to R76). -/
theorem length_legalArgs (f : Format) :
    (legalArgs f).length = match f with | .n => 1 | .b => 256 | .a => 128 | .m => 2 := by
  cases f <;> decide +kernel

/-- Thirteen rows of format N, five of format B, one of format A and one of format M (30_encoding R72). -/
theorem length_legalWords : legalWords.length = 1423 := by
  simp [legalWords, rowWords, opcodeTable, controlRows, unitRows, framerRows, length_legalArgs]

/-- Settles O3: the list is the words of the twenty rows, each row's distinct by their arguments and two rows' by their
opcodes. -/
theorem exactlyThe1423LegalWordsDecode : Obligations.ExactlyThe1423LegalWordsDecode :=
  ⟨⟨legalWords, nodup_legalWords, length_legalWords, fun _ => mem_legalWords_iff⟩, decode_eq_instr_iff_matches,
   fun _ _ _ hr hr' hw hw' => row_eq_of_matches hr hr' hw hw'⟩

end Sys2Proof.Machine
end

section
/-! The statements on single words: which words are commands, and what a word that is none is (30_encoding R79). -/

namespace Sys2Proof.Machine

/-- Settles O1: each row's format gives the operand back, and read backwards it leaves one word for each command. -/
theorem decodeAndEncodeAgree : Obligations.DecodeAndEncodeAgree :=
  ⟨decode_encode, fun _ _ => encode_of_decode⟩

/-- Settles O4: the decoder evaluated on each word. -/
theorem sampleWordsDecode : Obligations.SampleWordsDecode := by
  unfold Obligations.SampleWordsDecode
  decide

/-- The reserved ranges of 30_encoding R79. -/
def ReservedOpcode (op : Byte) : Prop :=
  (0x06 ≤ op.toNat ∧ op.toNat ≤ 0x0F) ∨ (0x13 ≤ op.toNat ∧ op.toNat ≤ 0x1F) ∨
    (0x23 ≤ op.toNat ∧ op.toNat ≤ 0x2F) ∨ (0x34 ≤ op.toNat ∧ op.toNat ≤ 0x3F) ∨ 0x44 ≤ op.toNat

/-- A reserved bit of ARG is set, by the opcode: SET_MODE, BUF_RD, the five of format B, and all others (30_encoding R73
to R76). -/
def ReservedBitSet (op arg : Byte) : Prop :=
  if op = 0x03#8 then 2 ≤ arg.toNat else if op = 0x05#8 then 128 ≤ arg.toNat
  else ¬ (op = 0x11#8 ∨ op = 0x21#8 ∨ op = 0x30#8 ∨ op = 0x31#8 ∨ op = 0x41#8) ∧ arg ≠ 0#8

/-- The twenty opcodes are those outside the reserved ranges. -/
theorem exists_row_iff_not_reservedOpcode (op : Byte) : (∃ r ∈ opcodeTable, op = r.op) ↔ ¬ ReservedOpcode op := by
  unfold ReservedOpcode
  revert op
  decide

/-- The reserved bits as a range of the argument's value, in each format (30_encoding R73 to R76). -/
theorem and_reservedArg_ne_zero_iff (f : Format) (arg : Byte) :
    arg &&& f.reservedArg ≠ 0x00#8 ↔
      match f with | .n => arg ≠ 0#8 | .b => False | .a => 128 ≤ arg.toNat | .m => 2 ≤ arg.toNat := by
  cases f <;> revert arg <;> decide

theorem reservedBitSet_iff_of_row (arg : Byte) :
    ∀ r ∈ opcodeTable, arg &&& r.format.reservedArg ≠ 0x00#8 ↔ ReservedBitSet r.op arg := by
  simp [opcodeTable, controlRows, unitRows, framerRows, and_reservedArg_ne_zero_iff, ReservedBitSet]

/-- Settles O2: the opcode has a row exactly outside the reserved ranges, and its row's format reserves exactly the bits
named. -/
theorem everyWordIsACommandOrANamedRefusal : Obligations.EveryWordIsACommandOrANamedRefusal := by
  intro op arg
  have hbits : ∀ r ∈ opcodeTable, op = r.op →
      (arg &&& r.format.reservedArg ≠ 0x00#8 ↔ ReservedBitSet op arg) := by
    rintro r hr rfl
    exact reservedBitSet_iff_of_row arg r hr
  have hillegal : decode (cmdWord op arg) = .illegalOpcode ↔ ReservedOpcode op := by
    rw [decode_cmdWord, decodeFields_eq_illegalOpcode_iff, exists_row_iff_not_reservedOpcode, not_not]
  have hbad : decode (cmdWord op arg) = .badArg ↔ ¬ ReservedOpcode op ∧ ReservedBitSet op arg := by
    rw [decode_cmdWord, decodeFields_eq_badArg_iff, exists_row_and_iff hbits, exists_row_iff_not_reservedOpcode]
  have hinstr : (∃ i, decode (cmdWord op arg) = .instr i) ↔ ∃ r ∈ opcodeTable, FitsRow op arg r := by
    rw [decode_cmdWord, decodeFields_eq_instr_iff]
  have hfits : (∃ r ∈ opcodeTable, FitsRow op arg r) ↔ ¬ ReservedOpcode op ∧ ¬ ReservedBitSet op arg := by
    rw [← exists_row_iff_not_reservedOpcode]
    exact exists_row_and_iff fun r hr hop => (not_iff_comm.mp (hbits r hr hop)).symm
  exact ⟨hillegal, hbad, hinstr.trans hfits, hinstr.trans wellFormedWord_cmdWord_iff.symm⟩

end Sys2Proof.Machine
end

section
/-! The statements on one command word at the port: its answer, its refusal, and the phases in which a command is
accepted (60 R231 to R234). -/

namespace Sys2Proof.Machine

/-- Settles O6: the two refusals of a word that is no command, with the codes of 60 R232. -/
theorem stepRefusesAWordThatIsNoCommand : Obligations.StepRefusesAWordThatIsNoCommand :=
  ⟨fun _ _ _ hport hw => step_of_decode_illegalOpcode hport hw,
   fun _ _ _ hport hw => step_of_decode_badArg hport hw⟩

theorem executed_port (i : Instr) (s : State) : (executed i s).port = s.port := by
  cases i
  case encEnd => simp [executed]
  case decData b => rw [executed]; split <;> simp
  all_goals rfl

theorem executed_resets (i : Instr) (s : State) : (executed i s).resets = s.resets := by
  cases i
  case encEnd => simp [executed]
  case decData b => rw [executed]; split <;> simp
  all_goals rfl

/-- Settles O10: a word is executed or refused, and either way it is answered once. -/
theorem everyCommandWordGetsOneResponse : Obligations.EveryCommandWordGetsOneResponse := by
  intro s w rest hport
  obtain ⟨t, ht⟩ := step_eq_next_of_port_cons hport
  obtain ⟨he, -⟩ | ⟨i, -, -, rfl⟩ | ⟨-, c, -, rfl⟩ := step_cases hport ht
  · cases he
  · obtain ⟨v, hv⟩ := executed_responses i { s with port := rest }
    exact ⟨_, _, ht, executed_port i _, hv, executed_resets i _⟩
  · exact ⟨_, _, ht, rfl, rfl, rfl⟩

theorem accepts_of_anyPhase {i : Instr} (hp : phaseNeeded i = none) (hroom : needsRoom i = false) (s : State) :
    accepts i s :=
  accepts_iff.mpr ⟨fun p h => by simp [hp] at h, fun h => by simp [hroom] at h⟩

/-- The row of the matrix of a command that needs a phase and no room (60 R234). -/
theorem answeredOk_or_wrongPhase {i : Instr} {p : Phase} (hp : phaseNeeded i = some p) (hroom : needsRoom i = false)
    (s : State) :
    (s.phase = p → answeredOk i s) ∧ (s.phase ≠ p → exec i s = .next (raiseRefusal .wrongPhase s)) :=
  ⟨fun h => answeredOk_iff_accepts.mpr (accepts_of_phase hp hroom h), exec_of_wrongPhase hp⟩

theorem exec_encData_of_full {b : Byte} {s : State} (hphase : s.phase = .encFill) (hfull : ¬ s.cnt.toNat < 128) :
    exec (.encData b) s = .next (raiseRefusal .bufFull s) :=
  exec_of_refusalCause (by simp [refusalCause, phaseNeeded, needsRoom, Config.payloadLen, hphase, hfull])

/-- Settles O32, row by row of the matrix, and that `accepts` is the matrix. -/
theorem acceptanceMatrix : Obligations.AcceptanceMatrix := by
  refine ⟨fun s i hi => answeredOk_iff_accepts.mpr ?_, fun s i hi => ?_, fun s b => ⟨fun hphase hroom => ?_,
    exec_encData_of_full, exec_of_wrongPhase rfl⟩, answeredOk_or_wrongPhase rfl rfl, answeredOk_or_wrongPhase rfl rfl,
    fun s i hi => ?_, fun _ _ => answeredOk_iff_accepts⟩
  · fin_cases hi <;> exact accepts_of_anyPhase rfl rfl s
  · obtain ⟨m, rfl⟩ | ⟨a, rfl⟩ | rfl | ⟨b, rfl⟩ | rfl | ⟨b, rfl⟩ | ⟨n, rfl⟩ | rfl := hi <;>
      exact answeredOk_or_wrongPhase rfl rfl s
  · exact answeredOk_iff_accepts.mpr (accepts_encData hphase hroom)
  · obtain ⟨b, rfl⟩ | rfl := hi <;> exact answeredOk_or_wrongPhase rfl rfl s

end Sys2Proof.Machine
end

section
/-! The standalone accumulator: SUM_CLR, SUM_BYTE and SUM_RD as single commands (40 R101 to R103). -/

namespace Sys2Proof.Machine

theorem refusedAtPort_of_decode_badArg {w : Word} (hw : decode w = .badArg) : refusedAtPort w .badArg :=
  fun _ _ hport => step_of_decode_badArg hport hw

/-- The argument of a format-N word is refused unless it is zero (30_encoding R73). -/
theorem refusedAtPort_of_decodeN {op arg : Byte} {i : Instr} (hrow : decode (cmdWord op arg) = decodeN arg i)
    (harg : arg ≠ 0x00#8) : refusedAtPort (cmdWord op arg) .badArg :=
  refusedAtPort_of_decode_badArg (hrow.trans (if_neg harg))

theorem decode_sumClrWord (arg : Byte) : decode (cmdWord 0x10#8 arg) = decodeN arg .sumClr := decode_cmdWord _ _

theorem decode_sumByteWord (b : Byte) : decode (cmdWord 0x11#8 b) = .instr (.sumByte b) := decode_encode (.sumByte b)

theorem decode_sumRdWord (arg : Byte) : decode (cmdWord 0x12#8 arg) = decodeN arg .sumRd := decode_cmdWord _ _

/-- A byte's addition discards the carry out of bit 7 (40 R102). -/
theorem byte_add_eq_ofNat (a b : Byte) : a + b = BitVec.ofNat 8 ((a.toNat + b.toNat) % 256) := by
  rw [← BitVec.toNat_inj, BitVec.toNat_add, BitVec.toNat_ofNat, Nat.mod_mod]

theorem zext_eq_append (b : Byte) : zext b = 0x00#8 ++ b := BitVec.setWidth_eq_append (by decide)

/-- Settles O17: SUM_CLR is executed in IDLE and refused elsewhere, and its word is of format N. -/
theorem sumClrClearsSum : Obligations.SumClrClearsSum :=
  ⟨fun _ hidle => exec_of_accepts (accepts_of_phase rfl rfl hidle), fun _ => exec_of_wrongPhase rfl,
   decode_sumClrWord, fun arg => refusedAtPort_of_decodeN (decode_sumClrWord arg)⟩

/-- Settles O18: SUM_BYTE adds in `Byte`, which is addition modulo 256. -/
theorem sumByteAddsModulo256 : Obligations.SumByteAddsModulo256 := by
  refine ⟨fun b s hidle => ?_, fun _ _ => exec_of_wrongPhase rfl, decode_sumByteWord⟩
  rw [← byte_add_eq_ofNat]
  exact exec_of_accepts (accepts_of_phase rfl rfl hidle)

/-- Settles O19: SUM_RD is executed in every phase, and its word is of format N. -/
theorem sumRdReturnsSum : Obligations.SumRdReturnsSum := by
  refine ⟨fun s => ?_, decode_sumRdWord, fun arg => refusedAtPort_of_decodeN (decode_sumRdWord arg)⟩
  rw [← zext_eq_append]
  exact exec_of_accepts (accepts_of_anyPhase rfl rfl s)

end Sys2Proof.Machine
end

section
/-! The arithmetic of checksum8 (40 R100, R105): it is the sum of its bytes in `Byte`, so the laws of a sum in a
commutative group are its laws. -/

namespace Sys2Proof.Machine

theorem checksum8_eq_sum (d : List Byte) : checksum8 d = d.sum := List.sum_eq_foldl.symm

@[simp] theorem checksum8_cons (b : Byte) (d : List Byte) : checksum8 (b :: d) = b + checksum8 d := by
  simp only [checksum8_eq_sum, List.sum_cons]

@[simp] theorem checksum8_append (d d' : List Byte) : checksum8 (d ++ d') = checksum8 d + checksum8 d' := by
  simp only [checksum8_eq_sum, List.sum_append]

theorem checksum8_toNat (d : List Byte) : (checksum8 d).toNat = (d.map BitVec.toNat).sum % 256 := by
  induction d with
  | nil => rfl
  | cons b d ih => rw [checksum8_cons, BitVec.toNat_add, ih, List.map_cons, List.sum_cons, Nat.add_mod_mod]

theorem checksum8_perm {d d' : List Byte} (h : d.Perm d') : checksum8 d = checksum8 d' := by
  simp only [checksum8_eq_sum, h.sum_eq]

theorem checksum8_filter_ne_zero (d : List Byte) : checksum8 (d.filter fun b => b ≠ 0x00#8) = checksum8 d := by
  simp only [checksum8_eq_sum, decide_not, ← beq_eq_decide]
  exact List.sum_filter_bne_zero d

/-- One byte up and another down by the same amount cancel (40 R105 (c)). -/
theorem checksum8_add_sub (x y z : List Byte) (a b e : Byte) :
    checksum8 (x ++ [a + e] ++ y ++ [b - e] ++ z) = checksum8 (x ++ [a] ++ y ++ [b] ++ z) := by
  simp only [checksum8_append, checksum8_cons, checksum8_nil]
  ring

theorem checksum8_replace_inj {x y : List Byte} {a b : Byte}
    (h : checksum8 (x ++ [a] ++ y) = checksum8 (x ++ [b] ++ y)) : a = b := by
  simpa using h

/-- 128 is half of 256, so only the lowest bit of the byte counts. -/
theorem checksum8_replicate_128 (b : Byte) :
    checksum8 (List.replicate 128 b) = if b.toNat % 2 = 0 then 0x00#8 else 0x80#8 := by
  rw [checksum8_eq_sum, List.sum_replicate]
  revert b
  decide

/-- Settles O48: each clause is a law of the sum. -/
theorem checksumArithmetic : Obligations.ChecksumArithmetic :=
  ⟨checksum8_toNat, fun _ _ => checksum8_perm, checksum8_filter_ne_zero, checksum8_add_sub,
   fun _ _ _ _ hne h => hne (checksum8_replace_inj h), checksum8_replicate_128⟩

end Sys2Proof.Machine
end

section
/-! Running a command sequence at the port: `n` steps over the words of `n` commands are the commands issued one after
another (30_encoding R70, 70 R276). -/

namespace Sys2Proof.Machine

/-! ### One command -/

theorem exec_eq_next_issue (i : Instr) (s : State) : exec i s = .next (issue i s) := by
  obtain ⟨t, ht⟩ := exec_eq_next i s
  rw [issue, ht]

theorem issue_of_accepts {i : Instr} {s : State} (ha : accepts i s) : issue i s = executed i s := by
  rw [issue, exec_of_accepts ha]

theorem issue_of_refusalCause {i : Instr} {s : State} {c : Cause} (hc : refusalCause i s = some c) :
    issue i s = raiseRefusal c s := by
  rw [issue, exec_of_refusalCause hc]

/-! ### No command looks at the port -/

theorem padFrom_withPort {n : Nat} (port : List PortEvent) : ∀ {i : Nat} {s : State},
    padFrom i n { s with port := port } = { padFrom i n s with port := port } := by
  induction n with
  | zero => intro i s; rfl
  | succ n ih => intro i s; exact ih (s := feed Config.pad (storeBuf (bufAddr i) Config.pad s))

theorem recvByte_withPort (b : Byte) (s : State) (port : List PortEvent) :
    recvByte b { s with port := port } = { recvByte b s with port := port } := by
  have hpayload : recvPayload b { s with port := port } = { recvPayload b s with port := port } := by
    unfold recvPayload
    split <;> rfl
  simp only [recvByte, hpayload]

theorem executed_withPort (i : Instr) (s : State) (port : List PortEvent) :
    executed i { s with port := port } = { executed i s with port := port } := by
  cases i
  case encEnd => simp only [executed, padFrom_withPort]; rfl
  case decData b =>
    by_cases hfull : s.cnt.toNat = Config.remLen s.mode
    · rw [executed_decData_full b hfull, executed_decData_full (s := { s with port := port }) b hfull]
      rfl
    · rw [executed_decData_room b hfull, executed_decData_room (s := { s with port := port }) b hfull,
        recvByte_withPort]
      rfl
  all_goals rfl

theorem issue_withPort (i : Instr) (s : State) (port : List PortEvent) :
    issue i { s with port := port } = { issue i s with port := port } := by
  cases hc : refusalCause i s with
  | none => rw [issue_of_accepts hc, issue_of_accepts (s := { s with port := port }) hc, executed_withPort]
  | some c => rw [issue_of_refusalCause hc, issue_of_refusalCause (s := { s with port := port }) hc]; rfl

/-! ### A sequence of commands -/

@[simp] theorem issueAll_nil (s : State) : issueAll [] s = s := rfl

@[simp] theorem issueAll_cons (i : Instr) (is : List Instr) (s : State) :
    issueAll (i :: is) s = issueAll is (issue i s) := rfl

@[simp] theorem issueAll_append (is js : List Instr) (s : State) :
    issueAll (is ++ js) s = issueAll js (issueAll is s) :=
  List.foldl_append

theorem issueAll_withPort (is : List Instr) (port : List PortEvent) : ∀ s : State,
    issueAll is { s with port := port } = { issueAll is s with port := port } := by
  induction is with
  | nil => intro s; rfl
  | cons i is ih => intro s; rw [issueAll_cons, issue_withPort, ih, issueAll_cons]

theorem step_command_encode {i : Instr} {s : State} {rest : List PortEvent}
    (hport : s.port = .command (encode i) :: rest) : step s = .next { issue i s with port := rest } := by
  rw [step_of_decode_instr hport (decode_encode i), exec_eq_next_issue, issue_withPort]

theorem core_run_succ_of_step (M : Host.Core) {s t : M.State} (n : Nat) (h : M.step s = .next t) :
    M.run (n + 1) s = M.run n t := by
  simp only [Host.Core.run, h]

theorem runSteps_succ_of_step {s t : State} (n : Nat) (h : step s = .next t) : runSteps (n + 1) s = runSteps n t :=
  core_run_succ_of_step Sys2Proof.core n h

/-- The steps that take a sequence's words from the port do what issuing its commands does, whether they are accepted or
refused. -/
theorem runSteps_commandEvents {is : List Instr} : ∀ {n : Nat} {s : State} {rest : List PortEvent},
    s.port = commandEvents is ++ rest → is.length = n → runSteps n s = .next { issueAll is s with port := rest } := by
  induction is with
  | nil => rintro n s rest hport rfl; subst hport; rfl
  | cons i is ih =>
    rintro n s rest hport rfl
    rw [List.length_cons, runSteps_succ_of_step _ (step_command_encode hport), ih rfl rfl, issueAll_withPort]
    rfl

end Sys2Proof.Machine
end

section
/-! Loading a payload by commands: what PHASE, CNT, PBUF and the two accumulators hold after any number of ENC_DATA
(42 R133), after ENC_END (42 R134), and after any number of DEC_DATA (43 R152). -/

namespace Sys2Proof.Machine

/-! ### The payload bytes by name -/

/-- The bytes `q` are loaded: they are the first bytes of PBUF, and the accumulators hold their CRC and their sum. -/
structure State.Holds (s : State) (q : List Byte) : Prop where
  tracks : s.Tracks q.length
  payload : s.payload q.length = q

theorem State.Holds.crc_eq {s : State} {q : List Byte} (h : s.Holds q) : s.crc = crc16 q := by
  rw [h.tracks.crc, h.payload]

theorem State.Holds.sum_eq {s : State} {q : List Byte} (h : s.Holds q) : s.sum = checksum8 q := by
  rw [h.tracks.sum, h.payload]

/-- It is a statement about CRC, SUM, PBUF and the reset counter only. -/
theorem State.Holds.congr {s t : State} {q : List Byte} (h : s.Holds q) (hcrc : t.crc = s.crc) (hsum : t.sum = s.sum)
    (hpbuf : t.pbuf = s.pbuf) (hresets : t.resets = s.resets) : t.Holds q := by
  have hpayload : ∀ k, t.payload k = s.payload k := fun k => payload_congr fun i _ => readBuf_congr hpbuf hresets _
  refine ⟨⟨?_, ?_, ?_⟩, ?_⟩
  · rw [hcrc, hpayload, h.tracks.crc]
  · rw [hsum, hpayload, h.tracks.sum]
  · rw [State.filled, hpbuf]
    exact h.tracks.fill
  · rw [hpayload, h.payload]

theorem holds_nil {s : State} (hcrc : s.crc = Config.crcInit) (hsum : s.sum = 0x00#8) : s.Holds [] :=
  ⟨tracks_zero hcrc hsum, rfl⟩

theorem State.Holds.feed_storeBuf {s : State} {q : List Byte} (h : s.Holds q) (hq : q.length < 128) (b : Byte) :
    (feed b (storeBuf (bufAddr q.length) b s)).Holds (q ++ [b]) := by
  constructor <;> rw [List.length_append, List.length_singleton]
  · exact h.tracks.feed_storeBuf hq b
  · exact (payload_storeBuf s hq b).trans (congrArg (· ++ [b]) h.payload)

/-- The loop of ENC_END appends its pad bytes (42 R134). -/
theorem State.Holds.padFrom {n : Nat} : ∀ {s : State} {q : List Byte}, s.Holds q → q.length + n ≤ 128 →
    (padFrom q.length n s).Holds (q ++ List.replicate n Config.pad) := by
  induction n with
  | zero => intro s q h _; simpa [Machine.padFrom] using h
  | succ n ih =>
    intro s q h hn
    have hrest := ih (h.feed_storeBuf (by omega) Config.pad) (by simp; omega)
    simpa [Machine.padFrom, List.replicate_succ] using hrest

/-! ### The encoder -/

/-- An encode is under way and its payload so far is `q` (42 R133). -/
structure State.Filling (s : State) (q : List Byte) : Prop where
  phase : s.phase = .encFill
  cnt : s.cnt.toNat = q.length
  holds : s.Holds q

theorem filling_encStart (n : Byte) {s : State} (hidle : s.phase = .idle) : (issue (.encStart n) s).Filling [] := by
  rw [issue_of_accepts (accepts_of_phase rfl rfl hidle)]
  exact ⟨rfl, rfl, holds_nil rfl rfl⟩

theorem State.Filling.encData {s : State} {q : List Byte} (h : s.Filling q) (hq : q.length < 128) (b : Byte) :
    (issue (.encData b) s).Filling (q ++ [b]) := by
  have hroom : s.cnt.toNat < 128 := h.cnt ▸ hq
  have hstored := h.holds.feed_storeBuf hq b
  rw [← h.cnt] at hstored
  rw [issue_of_accepts (accepts_encData h.phase hroom)]
  refine ⟨h.phase, ?_, hstored.congr rfl rfl rfl rfl⟩
  rw [List.length_append, List.length_singleton, ← h.cnt]
  exact toNat_add_one (by omega)

theorem State.Filling.encDatas {p : List Byte} : ∀ {s : State} {q : List Byte}, s.Filling q →
    q.length + p.length ≤ 128 → (issueAll (p.map .encData) s).Filling (q ++ p) := by
  induction p with
  | nil => intro s q h _; simpa using h
  | cons b p ih =>
    intro s q h hp
    rw [List.length_cons] at hp
    have hrest := ih (h.encData (by omega) b) (by simp; omega)
    simpa using hrest

/-- ENC_END pads the payload to 128 bytes (42 R131, R134). -/
theorem State.Filling.encEnd {s : State} {p : List Byte} (h : s.Filling p) (hp : p.length ≤ 128) :
    (issue .encEnd s).phase = .encOut ∧ (issue .encEnd s).Holds (padTo128 p) := by
  have hpadded := h.holds.padFrom (n := 128 - p.length) (by omega)
  rw [issue_of_accepts (accepts_of_phase rfl rfl h.phase)]
  refine ⟨rfl, ?_⟩
  rw [executed, h.cnt]
  exact hpadded.congr rfl rfl rfl rfl

/-- ENC_START, at most 128 ENC_DATA and ENC_END load the padded payload. -/
theorem holds_fillSeq (n : Byte) {p : List Byte} {s : State} (hidle : s.phase = .idle) (hp : p.length ≤ 128) :
    (issueAll (fillSeq n p) s).phase = .encOut ∧ (issueAll (fillSeq n p) s).Holds (padTo128 p) := by
  have hfilled : (issueAll (p.map .encData) (issue (.encStart n) s)).Filling p :=
    (filling_encStart n hidle).encDatas (by simpa using hp)
  simpa [fillSeq] using hfilled.encEnd hp

/-! ### The decoder -/

/-- The payload bytes among the first bytes `f` of a frame remainder: positions 2 to 129 (43 R150, R152). -/
def receivedPayload (f : List Byte) : List Byte := (f.drop 2).take Config.payloadLen

theorem receivedPayload_length (f : List Byte) : (receivedPayload f).length = min f.length 130 - 2 := by
  simp [receivedPayload, Config.payloadLen]; omega

theorem receivedPayload_snoc_of_stored {f : List Byte} (hf : 2 ≤ f.length ∧ f.length ≤ 129) (b : Byte) :
    receivedPayload (f ++ [b]) = receivedPayload f ++ [b] := by
  simp only [receivedPayload, Config.payloadLen]
  rw [List.drop_append_of_le_length hf.1, List.take_of_length_le (by simp; omega),
    List.take_of_length_le (by simp; omega)]

theorem receivedPayload_snoc_of_not_stored {f : List Byte} (hf : ¬ (2 ≤ f.length ∧ f.length ≤ 129)) (b : Byte) :
    receivedPayload (f ++ [b]) = receivedPayload f := by
  simp only [receivedPayload, Config.payloadLen]
  by_cases hshort : f.length < 2
  · rw [List.drop_of_length_le (by simp; omega), List.drop_of_length_le (by omega)]
  · rw [List.drop_append_of_le_length (by omega), List.take_append_of_le_length (by simp; omega)]

/-- A decode is under way and the bytes given so far are `f`, excess bytes included: CNT stops at REM_LEN, and PBUF
holds the payload among them (43 R152). -/
structure State.Receiving (s : State) (f : List Byte) : Prop where
  phase : s.phase = .decIn
  cnt : s.cnt.toNat = min f.length (Config.remLen s.mode)
  holds : s.Holds (receivedPayload f)

theorem receiving_decStart {s : State} (hidle : s.phase = .idle) : (issue .decStart s).Receiving [] := by
  rw [issue_of_accepts (accepts_of_phase rfl rfl hidle)]
  exact ⟨rfl, (Nat.zero_min _).symm, holds_nil rfl rfl⟩

theorem State.Holds.recvPayload {s : State} {f : List Byte} (h : s.Holds (receivedPayload f))
    (hcnt : s.cnt.toNat = f.length) (b : Byte) : (recvPayload b s).Holds (receivedPayload (f ++ [b])) := by
  unfold Machine.recvPayload
  split
  · rename_i hstores
    have hpos := recvStores_iff.mp hstores
    rw [hcnt] at hpos
    have hlength : (receivedPayload f).length = f.length - 2 := by rw [receivedPayload_length]; omega
    have hstored := h.feed_storeBuf (by omega) b
    rwa [hlength, ← hcnt, ← receivedPayload_snoc_of_stored hpos] at hstored
  · rename_i hstores
    rw [recvStores_iff, hcnt] at hstores
    rwa [receivedPayload_snoc_of_not_stored hstores]

theorem le_remLen (m : Mode) : 131 ≤ Config.remLen m := by
  cases m <;> decide

theorem State.Receiving.decData {s : State} {f : List Byte} (h : s.Receiving f) (b : Byte) :
    (issue (.decData b) s).Receiving (f ++ [b]) := by
  have hcnt := h.cnt
  have hrem := remLen_le s.mode
  have hrem' := le_remLen s.mode
  have hlength : (f ++ [b]).length = f.length + 1 := by simp
  rw [issue_of_accepts (accepts_of_phase rfl rfl h.phase)]
  by_cases hfull : s.cnt.toNat = Config.remLen s.mode
  · rw [executed_decData_full b hfull]
    refine ⟨h.phase, ?_, ?_⟩
    · show s.cnt.toNat = min (f ++ [b]).length (Config.remLen s.mode)
      omega
    · have hpast : ¬ (2 ≤ f.length ∧ f.length ≤ 129) := by omega
      rw [receivedPayload_snoc_of_not_stored hpast]
      exact h.holds.congr rfl rfl rfl rfl
  · rw [executed_decData_room b hfull]
    have hhere : s.cnt.toNat = f.length := by omega
    have hnext : (recvByte b s).cnt.toNat = s.cnt.toNat + 1 := toNat_add_one (by omega)
    refine ⟨(recvByte_phase b s).trans h.phase, ?_, (h.holds.recvPayload hhere b).congr rfl rfl rfl rfl⟩
    rw [accept_cnt, accept_mode, hnext, recvByte_mode]
    omega

theorem State.Receiving.decDatas {g : List Byte} : ∀ {s : State} {f : List Byte}, s.Receiving f →
    (issueAll (g.map .decData) s).Receiving (f ++ g) := by
  induction g with
  | nil => intro s f h; simpa using h
  | cons b g ih => intro s f h; simpa using ih (h.decData b)

theorem receiving_receiveSeq (f : List Byte) {s : State} (hidle : s.phase = .idle) :
    (issueAll (receiveSeq f) s).Receiving f :=
  (receiving_decStart hidle).decDatas

end Sys2Proof.Machine
end

section
/-! The law of the checksum accumulator (40 R104), standalone and under the framer. -/

namespace Sys2Proof.Machine

/-- SUM_BYTE after SUM_BYTE, standalone: SUM takes the bytes' sum, and each command is answered 0 (40 R102). -/
theorem issueAll_sumBytes (d : List Byte) : ∀ {s : State}, s.phase = .idle →
    issueAll (d.map .sumByte) s = { s with
      sum := s.sum + checksum8 d, responses := s.responses ++ List.replicate d.length ⟨0x0000#16, false⟩ } := by
  induction d with
  | nil => intro s _; simp
  | cons b d ih =>
    intro s hidle
    have hbyte : issue (.sumByte b) s = executed (.sumByte b) s := issue_of_accepts (accepts_of_phase rfl rfl hidle)
    rw [List.map_cons, issueAll_cons, hbyte, ih (s := executed (.sumByte b) s) hidle]
    simp [executed, accept, respond, List.replicate_succ, BitVec.add_assoc]

/-- `CHECKSUM8 d` (30_encoding R87), standalone. -/
theorem issueAll_macroChecksum8 (d : List Byte) {s : State} (hidle : s.phase = .idle) :
    issueAll (macroChecksum8 d) s = { s with
      sum := checksum8 d,
      responses := s.responses ++ List.replicate (d.length + 1) ⟨0x0000#16, false⟩ ++
        [⟨(checksum8 d).setWidth 16, false⟩] } := by
  have hclear : issue .sumClr s = executed .sumClr s := issue_of_accepts (accepts_of_phase rfl rfl hidle)
  have hread : ∀ t, issue .sumRd t = executed .sumRd t := fun t => issue_of_accepts (accepts_of_anyPhase rfl rfl t)
  rw [macroChecksum8, List.cons_append, issueAll_cons, issueAll_append, hclear,
    issueAll_sumBytes d (s := executed .sumClr s) hidle, issueAll_cons, issueAll_nil, hread]
  simp [executed, accept, respond, zext, List.replicate_succ]

/-- Settles O46: the words at the port are the commands issued in order, which add the bytes to SUM standalone and load
the payload under the framer. -/
theorem checksumCommandsComputeChecksum8 : Obligations.ChecksumCommandsComputeChecksum8 := by
  refine ⟨fun d s rest hidle hport => ?_, fun d s rest hidle hport => ?_, fun n p s rest hidle hp hport => ?_,
    fun f s rest hidle _ hport => ?_⟩
  · rw [runSteps_commandEvents hport (by simp [macroChecksum8]), issueAll_macroChecksum8 d hidle]
  · rw [runSteps_commandEvents hport (by simp), issueAll_sumBytes d hidle]
  · obtain ⟨hphase, hloaded⟩ := holds_fillSeq n hidle hp
    exact ⟨_, runSteps_commandEvents hport (by simp [fillSeq]), hphase, hloaded.sum_eq⟩
  · have hreceiving := receiving_receiveSeq f hidle
    exact ⟨_, runSteps_commandEvents hport (by simp [receiveSeq]), hreceiving.phase, hreceiving.holds.sum_eq⟩

end Sys2Proof.Machine
end

section
/-! The algebra of crc_update (41 R117 (c), R118): it is linear, and a register whose top byte is clear is only shifted,
so a byte's whole effect is the table entry of what it makes of the top byte. -/

namespace Sys2Proof.Machine

/-! ### Linearity -/

theorem extractLsb'_15_eq_one_iff (c : Word) : c.extractLsb' 15 1 = 1#1 ↔ c.getLsbD 15 = true := by
  have hbit : c.extractLsb' 15 1 = BitVec.ofBool (c.getLsbD 15) := by
    ext i hi
    obtain rfl : i = 0 := by omega
    simp
  rw [hbit]
  cases c.getLsbD 15 <;> decide

/-- What the bit that leaves the register brings into it: the polynomial or nothing. -/
def feedback (out : Bool) : Word := if out then Config.crcPoly else 0x0000#16

theorem feedback_xor (x y : Bool) : feedback (x ^^ y) = feedback x ^^^ feedback y := by
  cases x <;> cases y <;> decide

/-- The shift step of 41 R111 without its branch. -/
theorem crcShift_eq (c : Word) : crcShift c = c <<< 1 ^^^ feedback (c.getLsbD 15) := by
  simp only [crcShift, feedback, extractLsb'_15_eq_one_iff]
  split
  · rfl
  · exact BitVec.xor_zero.symm

theorem crcShift_xor (c c' : Word) : crcShift (c ^^^ c') = crcShift c ^^^ crcShift c' := by
  simp only [crcShift_eq, BitVec.shiftLeft_xor_distrib, BitVec.getLsbD_xor, feedback_xor]
  ac_rfl

theorem crcShifts_xor {n : Nat} : ∀ c c' : Word, crcShifts n (c ^^^ c') = crcShifts n c ^^^ crcShifts n c' := by
  induction n with
  | zero => exact fun _ _ => rfl
  | succ n ih => intro c c'; rw [crcShifts, crcShift_xor, ih, crcShifts, crcShifts]

theorem crcUpdate_xor (c c' : Word) (b b' : Byte) :
    crcUpdate (c ^^^ c') (b ^^^ b') = crcUpdate c b ^^^ crcUpdate c' b' := by
  simp only [crcUpdate, ← crcShifts_xor, BitVec.setWidth_xor, BitVec.shiftLeft_xor_distrib]
  ac_rfl

/-! ### The table form -/

theorem crcUpdate_zero_zero : crcUpdate 0x0000#16 0x00#8 = 0x0000#16 := by decide

/-- No polynomial enters while zeros leave. -/
theorem crcShifts_eq_shiftLeft {n : Nat} : ∀ {c : Word}, (∀ i < n, c.getLsbD (15 - i) = false) →
    crcShifts n c = c <<< n := by
  induction n with
  | zero => exact fun _ => (BitVec.shiftLeft_zero _).symm
  | succ n ih =>
    intro c hc
    have hshift : crcShift c = c <<< 1 := by
      rw [crcShift_eq, hc 0 n.succ_pos]
      exact BitVec.xor_zero
    have hrest : ∀ i < n, (c <<< 1).getLsbD (15 - i) = false := by
      intro i hi
      have hnext := hc (i + 1) (by omega)
      rw [← Nat.sub_sub] at hnext
      simp [hnext]
    rw [crcShifts, hshift, ih hrest, ← BitVec.shiftLeft_add, Nat.add_comm]

/-- The byte meets the top byte only. -/
theorem xor_setWidth_shiftLeft_eq (c : Word) (b : Byte) :
    c ^^^ b.setWidth 16 <<< 8 = c.lo.setWidth 16 ^^^ (c.hi ^^^ b).setWidth 16 <<< 8 := by
  refine BitVec.eq_of_getLsbD_eq fun i hi => ?_
  by_cases hlow : i < 8
  · simp [Word.lo, hlow, hi]
  · have htop : i - 8 < 8 ∧ 8 + (i - 8) = i := by omega
    simp [Word.lo, Word.hi, hlow, htop, hi]

theorem setWidth_lo_shiftLeft (c : Word) : c.lo.setWidth 16 <<< 8 = c <<< 8 := by
  refine BitVec.eq_of_getLsbD_eq fun i hi => ?_
  have hlow : i - 8 < 8 ∧ i - 8 < 16 := by omega
  simp [Word.lo, hlow]

theorem crcShifts_setWidth_lo (c : Word) : crcShifts 8 (c.lo.setWidth 16) = c <<< 8 := by
  have hclear : ∀ i < 8, (c.lo.setWidth 16).getLsbD (15 - i) = false := by
    intro i hi
    have hpast : ¬ 15 - i < 8 := by omega
    simp [Word.lo, hpast]
  rw [crcShifts_eq_shiftLeft hclear, setWidth_lo_shiftLeft]

/-- The table form (41 R118 (a)). -/
theorem crcUpdate_eq_table (c : Word) (b : Byte) : crcUpdate c b = c <<< 8 ^^^ crcUpdate 0x0000#16 (c.hi ^^^ b) := by
  rw [crcUpdate, xor_setWidth_shiftLeft_eq, crcShifts_xor, crcShifts_setWidth_lo, crcUpdate, BitVec.zero_xor]

/-- A byte equal to the top byte cancels it (41 R114). -/
theorem crcUpdate_hi (c : Word) : crcUpdate c c.hi = c <<< 8 := by
  rw [crcUpdate_eq_table, BitVec.xor_self, crcUpdate_zero_zero, BitVec.xor_zero]

theorem shiftLeft_8_eq_append (c : Word) : c <<< 8 = c.lo ++ 0x00#8 :=
  BitVec.shiftLeft_eq_concat_of_lt (by decide)

theorem hi_shiftLeft_8 (c : Word) : Word.hi (c <<< 8) = c.lo := by
  rw [shiftLeft_8_eq_append]
  exact BitVec.extractLsb'_append_eq_left

/-! ### The parallel form -/

/-- The high half of a byte folded onto its low half, of which three copies make the byte's table entry. -/
def foldNibbles (t : Byte) : Byte := t ^^^ t >>> 4

theorem crcUpdate_zero_eq (t : Byte) : crcUpdate 0x0000#16 t =
    (foldNibbles t).setWidth 16 ^^^ (foldNibbles t).setWidth 16 <<< 5 ^^^ (foldNibbles t).setWidth 16 <<< 12 := by
  revert t
  decide

theorem getLsbD_foldNibbles (t : Byte) (i : Nat) :
    (foldNibbles t).getLsbD i = (t.getLsbD i ^^ t.getLsbD (4 + i)) := by
  rw [foldNibbles, BitVec.getLsbD_xor, BitVec.getLsbD_ushiftRight]

theorem getLsbD_hi (c : Word) (i : Nat) : c.hi.getLsbD i = (decide (i < 8) && c.getLsbD (8 + i)) :=
  BitVec.getLsbD_extractLsb' 8 8 c i

/-- Settles O50: the networks are the table form read bit by bit. -/
theorem crcTableAndParallelForms : Obligations.CrcTableAndParallelForms := by
  refine fun c b => ⟨crcUpdate_eq_table c b, ?_⟩
  simp only [crcUpdate_eq_table c b, crcUpdate_zero_eq, BitVec.getLsbD_xor, BitVec.getLsbD_shiftLeft,
    BitVec.getLsbD_setWidth, getLsbD_foldNibbles, getLsbD_hi]
  simp [-BitVec.getLsbD_eq_getElem, Bool.xor_left_comm, Bool.xor_comm]

end Sys2Proof.Machine
end

section
/-! What crc16 inherits from crc_update (41 R117 (c) to (e)). -/

namespace Sys2Proof.Machine

theorem foldl_crcUpdate_zipWith_xor {a : List Byte} : ∀ {b : List Byte} (c c' : Word), a.length = b.length →
    (List.zipWith (fun x y => x ^^^ y) a b).foldl crcUpdate (c ^^^ c') =
      a.foldl crcUpdate c ^^^ b.foldl crcUpdate c' := by
  induction a with
  | nil => intro b c c' hlength; rw [List.eq_nil_of_length_eq_zero hlength.symm]; rfl
  | cons x a ih =>
    rintro (_ | ⟨y, b⟩) c c' hlength
    · cases hlength
    · rw [List.zipWith_cons_cons, List.foldl_cons, crcUpdate_xor, ih _ _ (Nat.succ.inj hlength)]
      rfl

theorem crc16_replicate_zero_append (k : Nat) (d : List Byte) : crc16 (List.replicate k 0x00#8 ++ d) = crc16 d := by
  induction k with
  | zero => rfl
  | succ k ih =>
    rwa [List.replicate_succ, List.cons_append, crc16, List.foldl_cons, Config.crcInit, crcUpdate_zero_zero]

/-- The first byte cancels the top byte, and the second what was the low byte. -/
theorem crc16_append_own_bytes (d : List Byte) : crc16 (d ++ [(crc16 d).hi, (crc16 d).lo]) = 0x0000#16 := by
  rw [List.append_cons, crc16_snoc, crc16_snoc, crcUpdate_hi, ← hi_shiftLeft_8, crcUpdate_hi, ← BitVec.shiftLeft_add]
  exact BitVec.shiftLeft_eq_zero (by decide)

/-- Settles O49: crc16 is the fold of a linear function from zero. -/
theorem crcLinearityLeadingZerosResidue : Obligations.CrcLinearityLeadingZerosResidue :=
  ⟨crcUpdate_xor, fun _ _ => foldl_crcUpdate_zipWith_xor 0x0000#16 0x0000#16, crc16_replicate_zero_append,
   crc16_append_own_bytes⟩

end Sys2Proof.Machine
end

section
/-! crc16 as a remainder over GF(2) (41 R112): a shift step is the multiplication by `X` followed by one step of the
division by G, so modulo G a byte's eight steps are the multiplication by `X ^ 8`. -/

namespace Sys2Proof.Machine

open Polynomial

/-! ### Words and messages as polynomials -/

/-- A bit as a coefficient. -/
noncomputable def bitPoly (x : Bool) : (ZMod 2)[X] := if x then 1 else 0

/-- A 16-bit value as a polynomial: bit `i` is the coefficient of `X ^ i`. -/
noncomputable def wordPoly (c : Word) : (ZMod 2)[X] := ∑ i ∈ Finset.range 16, bitPoly (c.getLsbD i) * X ^ i

/-- G(x) (41 R112). -/
noncomputable def generatorPoly : (ZMod 2)[X] := X ^ 16 + X ^ 12 + X ^ 5 + 1

/-- One more bit of a message, below those before it. -/
noncomputable def appendBit (acc : (ZMod 2)[X]) (bit : Bool) : (ZMod 2)[X] := acc * X + bitPoly bit

/-- M(x), the first bit highest (41 R112). -/
noncomputable def messagePoly (d : List Byte) : (ZMod 2)[X] := (messageBits d).foldl appendBit 0

@[simp] theorem bitPoly_false : bitPoly false = 0 := rfl
@[simp] theorem bitPoly_true : bitPoly true = 1 := rfl

theorem bitPoly_xor (x y : Bool) : bitPoly (x ^^ y) = bitPoly x + bitPoly y := by
  cases x <;> cases y <;> simp [CharTwo.add_self_eq_zero]

theorem wordPoly_xor (c c' : Word) : wordPoly (c ^^^ c') = wordPoly c + wordPoly c' := by
  simp only [wordPoly, BitVec.getLsbD_xor, bitPoly_xor, add_mul, Finset.sum_add_distrib]

theorem wordPoly_eq_listSum (c : Word) :
    wordPoly c = ((List.range 16).map fun i => if c.getLsbD i then (X : (ZMod 2)[X]) ^ i else 0).sum := by
  simp only [wordPoly, bitPoly, ite_mul, one_mul, zero_mul]
  rfl

/-! ### One shift step divides once by G -/

/-- Bit 15 is lost. -/
theorem wordPoly_shiftLeft_1 (c : Word) :
    wordPoly (c <<< 1) = wordPoly c * X - bitPoly (c.getLsbD 15) * X ^ 16 := by
  have hlowest : (c <<< 1).getLsbD 0 = false := by simp
  have hmoved : ∀ i ∈ Finset.range 15, (c <<< 1).getLsbD (i + 1) = c.getLsbD i := by
    intro i hi
    have hnext : i + 1 < 16 := Nat.succ_lt_succ (Finset.mem_range.mp hi)
    simp [-BitVec.getLsbD_eq_getElem, hnext]
  rw [eq_sub_iff_add_eq, wordPoly, wordPoly, Finset.sum_range_succ', hlowest, bitPoly_false, zero_mul, add_zero,
    Finset.sum_range_succ _ 15, add_mul, Finset.sum_mul, mul_assoc, ← pow_succ]
  refine congrArg (· + _) (Finset.sum_congr rfl fun i hi => ?_)
  rw [hmoved i hi, mul_assoc, ← pow_succ]

theorem wordPoly_feedback (x : Bool) : wordPoly (feedback x) = bitPoly x * (X ^ 12 + X ^ 5 + 1) := by
  cases x with
  | false => simp [wordPoly, feedback]
  | true =>
    simp [wordPoly, feedback, Config.crcPoly, Finset.sum_range_succ]
    ring

theorem wordPoly_crcShift (c : Word) :
    wordPoly (crcShift c) = wordPoly c * X + bitPoly (c.getLsbD 15) * generatorPoly := by
  rw [crcShift_eq, wordPoly_xor, wordPoly_shiftLeft_1, wordPoly_feedback, CharTwo.sub_eq_add, generatorPoly]
  ring

theorem mk_wordPoly_crcShift (c : Word) :
    AdjoinRoot.mk generatorPoly (wordPoly (crcShift c)) = AdjoinRoot.mk generatorPoly (wordPoly c * X) := by
  rw [wordPoly_crcShift, map_add, map_mul _ (bitPoly _), AdjoinRoot.mk_self, mul_zero, add_zero]

theorem mk_wordPoly_crcShifts {n : Nat} : ∀ c : Word,
    AdjoinRoot.mk generatorPoly (wordPoly (crcShifts n c)) = AdjoinRoot.mk generatorPoly (wordPoly c * X ^ n) := by
  induction n with
  | zero => intro c; rw [crcShifts, pow_zero, mul_one]
  | succ n ih => intro c; rw [crcShifts, ih, map_mul, mk_wordPoly_crcShift, ← map_mul, mul_assoc, pow_succ']

/-! ### The message -/

theorem foldl_appendBit_byte (acc : (ZMod 2)[X]) (b : Byte) :
    ((List.range 8).map fun i => b.getLsbD (7 - i)).foldl appendBit acc * X ^ 8 =
      acc * X ^ 16 + wordPoly (b.setWidth 16 <<< 8) := by
  simp [wordPoly, appendBit, List.range_succ, Finset.sum_range_succ]
  ring

theorem messagePoly_snoc (d : List Byte) (b : Byte) :
    messagePoly (d ++ [b]) * X ^ 8 = messagePoly d * X ^ 16 + wordPoly (b.setWidth 16 <<< 8) := by
  rw [← foldl_appendBit_byte, messagePoly, messagePoly, messageBits, List.flatMap_append, List.foldl_append,
    List.flatMap_singleton, messageBits]

/-- `M * X ^ 16` and crc16 agree modulo G. -/
theorem mk_wordPoly_crc16 (d : List Byte) :
    AdjoinRoot.mk generatorPoly (wordPoly (crc16 d)) = AdjoinRoot.mk generatorPoly (messagePoly d * X ^ 16) := by
  induction d using List.reverseRecOn with
  | nil => simp [wordPoly, messagePoly, messageBits]
  | append_singleton d b ih =>
    have hbyte : messagePoly (d ++ [b]) * X ^ 16 =
        (messagePoly d * X ^ 16 + wordPoly (b.setWidth 16 <<< 8)) * X ^ 8 := by
      rw [← messagePoly_snoc, mul_assoc, ← pow_add]
    rw [crc16_snoc, crcUpdate, mk_wordPoly_crcShifts, wordPoly_xor, hbyte, map_mul, map_add, ih, ← map_add, ← map_mul]

/-- Settles O51: what is equal modulo G differs by a multiple of G. -/
theorem crcIsThePolynomialRemainder : Obligations.CrcIsThePolynomialRemainder := by
  intro d
  obtain ⟨q, hq⟩ := AdjoinRoot.mk_eq_mk.mp (mk_wordPoly_crc16 d).symm
  refine ⟨q, ?_⟩
  rw [← wordPoly_eq_listSum, mul_comm q]
  exact sub_eq_iff_eq_add.mp hq

end Sys2Proof.Machine
end

section
/-! The standalone generator: CRC_CLR, CRC_BYTE and CRC_RD as single commands (41 R113 to R115), and the law of the
generator standalone and under the framer (41 R116). -/

namespace Sys2Proof.Machine

/-! ### Single commands -/

theorem decode_crcClrWord (arg : Byte) : decode (cmdWord 0x20#8 arg) = decodeN arg .crcClr := decode_cmdWord _ _

theorem decode_crcByteWord (b : Byte) : decode (cmdWord 0x21#8 b) = .instr (.crcByte b) := decode_encode (.crcByte b)

theorem decode_crcRdWord (arg : Byte) : decode (cmdWord 0x22#8 arg) = decodeN arg .crcRd := decode_cmdWord _ _

theorem crcUpdate_hi_eq_append (c : Word) : crcUpdate c c.hi = c.lo ++ 0x00#8 :=
  (crcUpdate_hi c).trans (shiftLeft_8_eq_append c)

/-- Settles O20: CRC_CLR is executed in IDLE and refused elsewhere, and its word is of format N. -/
theorem crcClrLoadsZero : Obligations.CrcClrLoadsZero :=
  ⟨fun _ hidle => exec_of_accepts (accepts_of_phase rfl rfl hidle), fun _ => exec_of_wrongPhase rfl,
   decode_crcClrWord, fun arg => refusedAtPort_of_decodeN (decode_crcClrWord arg)⟩

/-- Settles O21: CRC_BYTE is executed in IDLE and refused elsewhere; the cancellation is the table form at entry 0. -/
theorem crcByteUpdatesCrc : Obligations.CrcByteUpdatesCrc :=
  ⟨fun _ _ hidle => exec_of_accepts (accepts_of_phase rfl rfl hidle), crcUpdate_hi_eq_append, crcUpdate_zero_zero,
   by decide, by decide, fun _ _ => exec_of_wrongPhase rfl, decode_crcByteWord⟩

/-- Settles O22: CRC_RD is executed in every phase, and its word is of format N. -/
theorem crcRdReturnsCrc : Obligations.CrcRdReturnsCrc :=
  ⟨fun s => exec_of_accepts (accepts_of_anyPhase rfl rfl s), decode_crcRdWord,
   fun arg => refusedAtPort_of_decodeN (decode_crcRdWord arg)⟩

/-! ### Sequences -/

/-- CRC_BYTE after CRC_BYTE: CRC takes the bytes in order, and each command is answered 0 (41 R114). -/
theorem issueAll_crcBytes (d : List Byte) : ∀ {s : State}, s.phase = .idle →
    issueAll (d.map .crcByte) s = { s with
      crc := d.foldl crcUpdate s.crc,
      responses := s.responses ++ List.replicate d.length ⟨0x0000#16, false⟩ } := by
  induction d with
  | nil => intro s _; simp
  | cons b d ih =>
    intro s hidle
    have hbyte : issue (.crcByte b) s = executed (.crcByte b) s := issue_of_accepts (accepts_of_phase rfl rfl hidle)
    rw [List.map_cons, issueAll_cons, hbyte, ih (s := executed (.crcByte b) s) hidle]
    simp [executed, accept, respond, List.replicate_succ]

/-- `CRC16 d` (30_encoding R87), standalone. -/
theorem issueAll_macroCrc16 (d : List Byte) {s : State} (hidle : s.phase = .idle) :
    issueAll (macroCrc16 d) s = { s with
      crc := crc16 d,
      responses := s.responses ++ List.replicate (d.length + 1) ⟨0x0000#16, false⟩ ++ [⟨crc16 d, false⟩] } := by
  have hclear : issue .crcClr s = executed .crcClr s := issue_of_accepts (accepts_of_phase rfl rfl hidle)
  have hread : ∀ t, issue .crcRd t = executed .crcRd t := fun t => issue_of_accepts (accepts_of_anyPhase rfl rfl t)
  rw [macroCrc16, List.cons_append, issueAll_cons, issueAll_append, hclear,
    issueAll_crcBytes d (s := executed .crcClr s) hidle, issueAll_cons, issueAll_nil, hread]
  simp [executed, accept, respond, crc16, List.replicate_succ]

/-- Settles O47: the words at the port are the commands issued in order, which feed the bytes to CRC standalone and load
the payload under the framer. -/
theorem crcCommandsComputeCrc16 : Obligations.CrcCommandsComputeCrc16 := by
  refine ⟨fun d s rest hidle hport => ?_, fun n p s rest hidle hp hport => ?_, fun f s rest hidle _ hport => ?_⟩
  · rw [runSteps_commandEvents hport (by simp [macroCrc16]), issueAll_macroCrc16 d hidle]
  · obtain ⟨hphase, hloaded⟩ := holds_fillSeq n hidle hp
    exact ⟨_, runSteps_commandEvents hport (by simp [fillSeq]), hphase, hloaded.crc_eq⟩
  · have hreceiving := receiving_receiveSeq f hidle
    exact ⟨_, runSteps_commandEvents hport (by simp [receiveSeq]), hreceiving.phase, hreceiving.holds.crc_eq⟩

end Sys2Proof.Machine
end

section
/-! The encoder's four commands as single commands (42 R132 to R136). -/

namespace Sys2Proof.Machine

/-! ### ENC_START and ENC_DATA -/

/-- Settles O23: ENC_START is executed in IDLE and refused elsewhere, and its word is of format B. -/
theorem encStartOpensAnEncode : Obligations.EncStartOpensAnEncode :=
  ⟨fun _ _ hidle => exec_of_accepts (accepts_of_phase rfl rfl hidle), fun _ _ => exec_of_wrongPhase rfl,
   fun n => decode_encode (.encStart n)⟩

theorem get?_write (m : Memory) (a : Nat) (b : Byte) (x : Nat) :
    Memory.get? (Memory.write m a b) x = if x = a then some b else Memory.get? m x := by
  split_ifs with h
  · rw [h, get?_write_same]
  · exact get?_write_other m b h

/-- CNT advances modulo 256 (10_state R27). -/
theorem byte_add_one_eq_ofNat (c : Byte) : c + 1 = BitVec.ofNat 8 (c.toNat + 1) := by
  rw [BitVec.ofNat_add, BitVec.ofNat_toNat, BitVec.setWidth_eq]; rfl

/-- Settles O24: with room ENC_DATA is executed, and its one write is at CNT; at CNT = 128 the buffer is full. -/
theorem encDataAppendsAPayloadByte : Obligations.EncDataAppendsAPayloadByte := by
  refine ⟨fun b s hphase hroom => ⟨Memory.write s.pbuf s.cnt.toNat b, ?_, get?_write s.pbuf s.cnt.toNat b⟩,
    fun b s hphase hfull => exec_encData_of_full hphase (by omega), fun _ _ => exec_of_wrongPhase rfl,
    fun b => decode_encode (.encData b)⟩
  rw [exec_of_accepts (accepts_encData hphase hroom), ← byte_add_eq_ofNat, ← byte_add_one_eq_ofNat]
  simp [executed, fillByte, feed, storeBuf, accept, respond, fillAddr, bufAddr_toNat hroom]

/-! ### ENC_END -/

/-- The loop of ENC_END lists the pad byte at `i` to `i + n - 1`, all below 128, and nothing else (42 R134). -/
theorem get?_padFrom {n : Nat} (a : Nat) : ∀ {i : Nat} (s : State), n ≤ 128 - i →
    Memory.get? (padFrom i n s).pbuf a =
      if i ≤ a ∧ a < i + n then some Config.pad else Memory.get? s.pbuf a := by
  induction n with
  | zero => intro i s _; exact (if_neg (by omega)).symm
  | succ n ih =>
    intro i s hn
    rw [padFrom, ih _ (by omega), feed_pbuf, storeBuf_pbuf, bufAddr_toNat (by omega), get?_write]
    by_cases hhere : a = i
    · rw [if_pos hhere, ite_self, if_pos (by omega)]
    · rw [if_neg hhere]
      exact if_congr (by omega) rfl rfl

/-- Besides PBUF the loop of ENC_END writes the accumulators, which take its pad bytes one by one (42 R134). -/
theorem padFrom_eq {n : Nat} : ∀ {i : Nat} (s : State), padFrom i n s = { s with
    pbuf := (padFrom i n s).pbuf
    crc := (List.replicate n Config.pad).foldl crcUpdate s.crc
    sum := s.sum + checksum8 (List.replicate n Config.pad) } := by
  induction n with
  | zero => intro i s; simp [padFrom]
  | succ n ih =>
    intro i s
    rw [padFrom, ih, List.replicate_succ, checksum8_cons, ← BitVec.add_assoc]
    rfl

theorem checksum8_replicate_toNat (n : Nat) (b : Byte) :
    (checksum8 (List.replicate n b)).toNat = b.toNat * n % 256 := by
  rw [checksum8_toNat, List.map_replicate, List.sum_replicate, smul_eq_mul, Nat.mul_comm]

/-- ENC_FILL in the invariant: the payload so far is what PBUF holds below CNT (10_state R40 (a), (g)). -/
theorem State.Inv.filling {s : State} (h : s.Inv) (hphase : s.phase = .encFill) :
    s.Filling (s.payload s.cnt.toNat) ∧ s.cnt.toNat ≤ 128 := by
  obtain ⟨-, -, -, hcnt, htracks⟩ := (inv_iff_of_encFill hphase).mp h
  have hlength : (s.payload s.cnt.toNat).length = s.cnt.toNat := by simp [State.payload]
  exact ⟨⟨hphase, hlength.symm, by rwa [hlength], by rw [hlength]⟩, hcnt⟩

theorem State.Holds.payload_padTo128 {s : State} {p : List Byte} (h : s.Holds (padTo128 p)) (hp : p.length ≤ 128) :
    s.payload 128 = padTo128 p := by
  rw [← padTo128_length hp, h.payload]

theorem decode_encEndWord (arg : Byte) : decode (cmdWord 0x32#8 arg) = decodeN arg .encEnd := decode_cmdWord _ _

/-! The padding of an empty payload, evaluated in two halves: at one go it is too deep for the kernel. -/

theorem foldl_crcUpdate_pad_first_half :
    (List.replicate 64 Config.pad).foldl crcUpdate 0x0000#16 = 0x49DC#16 := by decide +kernel

theorem foldl_crcUpdate_pad_second_half :
    (List.replicate 64 Config.pad).foldl crcUpdate 0x49DC#16 = 0xF8B0#16 := by decide +kernel

/-- The CRC of a block of padding (42 R134). -/
theorem foldl_crcUpdate_pad_block : (List.replicate 128 Config.pad).foldl crcUpdate 0x0000#16 = 0xF8B0#16 := by
  rw [← List.replicate_append_replicate (n := 64) (m := 64), List.foldl_append, foldl_crcUpdate_pad_first_half,
    foldl_crcUpdate_pad_second_half]

theorem exec_encEnd {s : State} (hphase : s.phase = .encFill) : exec .encEnd s = .next { s with
    pbuf := (executed .encEnd s).pbuf
    crc := (List.replicate (128 - s.cnt.toNat) Config.pad).foldl crcUpdate s.crc
    sum := s.sum + checksum8 (List.replicate (128 - s.cnt.toNat) Config.pad)
    cnt := 0x00#8, phase := .encOut, responses := s.responses ++ [⟨0x0000#16, false⟩] } := by
  rw [exec_of_accepts (accepts_of_phase rfl rfl hphase), executed, padFrom_eq]
  rfl

/-- Settles O25: the loop's writes and accumulators in closed form; under the invariant the payload so far is loaded,
and its padding makes it 128 bytes. -/
theorem encEndPadsAndCloses : Obligations.EncEndPadsAndCloses := by
  refine ⟨fun s hphase => ⟨(executed .encEnd s).pbuf, ?_, fun a => ?_⟩, fun s t hinv hphase hexec => ?_,
    fun s hphase hcrc hsum hcnt => ⟨_, exec_encEnd hphase, ?_, ?_⟩, fun _ => exec_of_wrongPhase rfl,
    decode_encEndWord, fun arg => refusedAtPort_of_decodeN (decode_encEndWord arg)⟩
  · rw [exec_encEnd hphase, byte_add_eq_ofNat, checksum8_replicate_toNat, Nat.add_mod_mod]
    rfl
  · exact (get?_padFrom a s (Nat.le_refl _)).trans (if_congr (by omega) rfl rfl)
  · obtain ⟨hfilling, hcnt⟩ := hinv.filling hphase
    have hlength : (s.payload s.cnt.toNat).length ≤ 128 := hfilling.cnt ▸ hcnt
    obtain ⟨-, hpadded⟩ := hfilling.encEnd hlength
    rw [issue_of_accepts (accepts_of_phase rfl rfl hphase),
      ← exec_next_of_accepts (accepts_of_phase rfl rfl hphase) hexec] at hpadded
    rw [hpadded.payload_padTo128 hlength]
    refine ⟨?_, hpadded.crc_eq, hpadded.sum_eq⟩
    rw [padTo128, ← hfilling.cnt]
    rfl
  · show (List.replicate (128 - s.cnt.toNat) Config.pad).foldl crcUpdate s.crc = 0xF8B0#16
    rw [hcrc, hcnt]
    exact foldl_crcUpdate_pad_block
  · show s.sum + checksum8 (List.replicate (128 - s.cnt.toNat) Config.pad) = 0x00#8
    rw [hsum, hcnt]
    exact (BitVec.zero_add _).trans (checksum8_replicate_128 Config.pad)

end Sys2Proof.Machine
end

section
/-! The frame: `encode` field by field (42 R130, 30_encoding R81 to R84), the bytes ENC_POP reads it out as (42 R136),
and `decode` on it (43 R157). -/

namespace Sys2Proof.Machine

/-! ### `encode` -/

/-- FRAME_LEN(MODE) in numbers (00_scope R7). -/
theorem frameLen_eq (m : Mode) : Config.frameLen m = if m = .checksum then 132 else 133 := by
  cases m <;> rfl

theorem complement_eq_not (n : Byte) : complement n = ~~~ n := BitVec.allOnes_sub_eq_not n

theorem toNat_complement (n : Byte) : (complement n).toNat = 255 - n.toNat := by
  rw [complement_eq_not, BitVec.toNat_not]

/-- The block number and its complement make 0xFF (30_encoding R82). -/
theorem add_complement (n : Byte) : n + complement n = 255#8 := by
  rw [complement, add_sub_cancel]

/-- The frame after its SOH, which is what a decoder is given (90_conflicts C2). -/
theorem drop_one_encodeFrame (m : Mode) (n : Byte) (p : List Byte) :
    (encodeFrame m n p).drop 1 = n :: complement n :: (padTo128 p ++ trailer m (padTo128 p)) := rfl

/-- Settles O53: the header is written out in `encode`, and 128 bytes of payload follow it. -/
theorem encodeLaysOutTheFrame : Obligations.EncodeLaysOutTheFrame := by
  intro m n p hp
  have hpad : (padTo128 p).length = 128 := padTo128_length hp
  have htrailer : (encodeFrame m n p).drop 131 = trailer m (padTo128 p) := List.drop_left' (by simp [hpad])
  refine ⟨(encodeFrame_length m n hp).trans (frameLen_eq m), rfl, rfl, ?_, ?_, List.take_left' hpad, ?_, ?_⟩
  · exact (complement_eq_not n).trans BitVec.xor_allOnes.symm
  · exact (BitVec.toNat_add n (complement n)).symm.trans (congrArg BitVec.toNat (add_complement n))
  · rintro rfl; exact htrailer
  · rintro rfl; exact htrailer

/-! ### The bytes of ENC_POP -/

theorem lo_zext (b : Byte) : (zext b).lo = b := by
  rw [zext_eq_append]
  exact BitVec.extractLsb'_append_eq_right

theorem frameByte_payload (s : State) {k : Nat} (h3 : 3 ≤ k) (h130 : k ≤ 130) :
    frameByte s k = s.readBuf (popAddr k) := by
  rw [frameByte, if_neg (by omega), if_neg (by omega), if_neg (by omega), if_pos h130]

section Trailer
variable {s : State}

theorem frameByte_sum (hm : s.mode = .checksum) : frameByte s 131 = s.sum := by simp [frameByte, hm]
theorem frameByte_crc_hi (hm : s.mode = .crc16) : frameByte s 131 = s.crc.hi := by simp [frameByte, hm]
theorem frameByte_crc_lo (hm : s.mode = .crc16) : frameByte s 132 = s.crc.lo := by simp [frameByte, hm]

end Trailer

/-- The frame bytes of index 131 on are the trailer that the accumulators hold (42 R136). -/
theorem map_frameByte_trailer {s : State} {q : List Byte} (h : s.Holds q) :
    (List.range (Config.trailerLen s.mode)).map (fun i => frameByte s (131 + i)) = trailer s.mode q := by
  cases hm : s.mode with
  | checksum => simp [Config.trailerLen, trailer, frameByte_sum hm, h.sum_eq]
  | crc16 => simp [Config.trailerLen, trailer, List.range_succ, frameByte_crc_hi hm, frameByte_crc_lo hm, h.crc_eq]

/-- ENC_POP's bytes at all indices in turn are the frame of the payload that is loaded (42 R136, R137). -/
theorem map_frameByte_eq_encodeFrame {s : State} {p : List Byte} (h : s.Holds (padTo128 p)) (hp : p.length ≤ 128) :
    (List.range (Config.frameLen s.mode)).map (frameByte s) = encodeFrame s.mode s.blk p := by
  have hheader : (List.range 3).map (frameByte s) = [Config.soh, s.blk, complement s.blk] := rfl
  have hpayload : (List.range 128).map (fun i => frameByte s (3 + i)) = padTo128 p := by
    rw [← h.payload_padTo128 hp, State.payload]
    refine List.map_congr_left fun i hi => ?_
    have hlt : i < 128 := List.mem_range.mp hi
    rw [frameByte_payload s (by omega) (by omega), popAddr, Nat.add_sub_cancel_left]
  rw [Config.frameLen, Config.payloadLen, List.range_add, List.range_add, List.map_append, List.map_append,
    List.map_map, List.map_map, hheader, encodeFrame, ← map_frameByte_trailer h]
  exact congrArg₂ _ (congrArg _ hpayload) rfl

theorem decode_encPopWord (arg : Byte) : decode (cmdWord 0x33#8 arg) = decodeN arg .encPop := decode_cmdWord _ _

/-- Settles O26: ENC_POP answers `frameByte` at CNT, read index by index. -/
theorem encPopReturnsTheNextFrameByte : Obligations.EncPopReturnsTheNextFrameByte := by
  refine ⟨fun s hphase _ => ⟨frameByte s s.cnt.toNat, ?_, fun hk => ?_, fun hk => ?_, fun hk => ?_,
    frameByte_payload s, fun hk hm => ?_, fun hk hm => ?_, fun hk hm => ?_⟩, fun _ => exec_of_wrongPhase rfl,
    decode_encPopWord, fun arg => refusedAtPort_of_decodeN (decode_encPopWord arg)⟩
  · rw [exec_of_accepts (accepts_of_phase rfl rfl hphase), ← byte_add_one_eq_ofNat, ← frameLen_eq, ← zext_eq_append]
    rfl
  · rw [hk]; rfl
  · rw [hk]; rfl
  · rw [hk]; exact ⟨complement_eq_not s.blk, toNat_complement s.blk⟩
  · rw [hk, frameByte_sum hm]
  · rw [hk, frameByte_crc_hi hm]; rfl
  · rw [hk, frameByte_crc_lo hm]; rfl

/-! ### `decode` on a frame -/

/-- The law of the round trip as functions (43 R157): the three checks of `decode` pass on a frame of `encode`. -/
theorem decodeFrame_encodeFrame (m : Mode) (n : Byte) {p : List Byte} (hp : p.length ≤ 128) :
    decodeFrame m ((encodeFrame m n p).drop 1) = .ok n (padTo128 p) := by
  have hpad : (padTo128 p).length = 128 := padTo128_length hp
  have hlength : ((encodeFrame m n p).drop 1).length = Config.remLen m := by
    rw [List.length_drop, encodeFrame_length m n hp, Config.remLen]
  have hpayload : (((encodeFrame m n p).drop 1).drop 2).take Config.payloadLen = padTo128 p := List.take_left' hpad
  have htrailer : ((encodeFrame m n p).drop 1).drop 130 = trailer m (padTo128 p) :=
    List.drop_left' (l₁ := n :: complement n :: padTo128 p) (by simp [hpad])
  have hpair : ((encodeFrame m n p).drop 1).getD 0 0 + ((encodeFrame m n p).drop 1).getD 1 0 = 255#8 :=
    add_complement n
  rw [decodeFrame, if_neg (not_not_intro hlength), if_neg (not_not_intro hpair), hpayload,
    if_neg (not_not_intro htrailer)]
  rfl

end Sys2Proof.Machine
end

section
/-! The responses of a command sequence (70 R276), and what harmless commands put between the commands of another
sequence leave unchanged (42 R137). -/

namespace Sys2Proof.Machine

/-! ### One response a command -/

/-- The response to a command: the one it adds to the record. -/
def answer (i : Instr) (s : State) : Response := (issue i s).responses.getLastD ⟨0x0000#16, true⟩

/-- The responses to a command sequence, in order (70 R276). -/
def answers : List Instr → State → List Response
  | [], _ => []
  | i :: is, s => answer i s :: answers is (issue i s)

theorem answer_of_responses {i : Instr} {s : State} {r : Response}
    (h : (issue i s).responses = s.responses ++ [r]) : answer i s = r := by
  rw [answer, h, List.getLastD_concat]

theorem issue_responses (i : Instr) (s : State) : (issue i s).responses = s.responses ++ [answer i s] := by
  have hone : ∃ r, (issue i s).responses = s.responses ++ [r] := by
    cases hc : refusalCause i s with
    | none =>
      obtain ⟨v, hv⟩ := executed_responses i s
      exact ⟨_, by rw [issue_of_accepts hc, hv]⟩
    | some c => exact ⟨_, by rw [issue_of_refusalCause hc, raiseRefusal_responses]⟩
  obtain ⟨r, hr⟩ := hone
  rw [answer_of_responses hr, hr]

theorem issueAll_responses {is : List Instr} : ∀ {s : State},
    (issueAll is s).responses = s.responses ++ answers is s := by
  induction is with
  | nil => intro s; simp [answers]
  | cons i is ih => intro s; rw [issueAll_cons, ih, issue_responses, answers, ← List.append_cons]

@[simp] theorem length_answers {is : List Instr} : ∀ {s : State}, (answers is s).length = is.length := by
  induction is with
  | nil => intro s; rfl
  | cons i is ih => intro s; simp [answers, ih]

theorem answers_append {is js : List Instr} : ∀ {s : State},
    answers (is ++ js) s = answers is s ++ answers js (issueAll is s) := by
  induction is with
  | nil => intro s; rfl
  | cons i is ih => intro s; exact congrArg (answer i s :: ·) ih

theorem answers_of_responses {is : List Instr} {s : State} {rs : List Response}
    (h : (issueAll is s).responses = s.responses ++ rs) : answers is s = rs :=
  List.append_cancel_left (issueAll_responses.symm.trans h)

/-- What the host sees of a sequence is its responses (45 R211). -/
theorem answersSince_issueAll (is : List Instr) (s : State) : answersSince s (issueAll is s) = answers is s := by
  rw [answersSince, issueAll_responses, List.drop_left]

/-- A command is accepted exactly when it is answered RERR = 0 (30_encoding R78, 60 R231). -/
theorem accepts_of_answer_rerr {i : Instr} {s : State} (h : (answer i s).rerr = false) : accepts i s := by
  cases hc : refusalCause i s with
  | none => exact hc
  | some c =>
    have hrefused : answer i s = ⟨c.code.setWidth 16, true⟩ :=
      answer_of_responses (by rw [issue_of_refusalCause hc, raiseRefusal_responses])
    simp [hrefused] at h

/-! ### What a sequence leaves unchanged -/

theorem issue_sameReg (i : Instr) (s : State) {r : Reg} (hr : r ∉ writtenBy i) (herr : r ≠ .err)
    (hcode : r ≠ .errcode) : sameReg r s (issue i s) := by
  cases hc : refusalCause i s with
  | none => rw [issue_of_accepts hc]; exact executed_sameReg i s hr
  | some c => rw [issue_of_refusalCause hc]; exact raiseRefusal_sameReg c s herr hcode

theorem sameReg_trans {r : Reg} {s t u : State} (hst : sameReg r s t) (htu : sameReg r t u) : sameReg r s u := by
  cases r <;> exact Eq.trans htu hst

theorem issueAll_sameReg {is : List Instr} {r : Reg} (herr : r ≠ .err) (hcode : r ≠ .errcode) : ∀ {s : State},
    (∀ i ∈ is, r ∉ writtenBy i) → sameReg r s (issueAll is s) := by
  induction is with
  | nil => intro s _; cases r <;> rfl
  | cons i is ih =>
    intro s his
    obtain ⟨hi, hrest⟩ := List.forall_mem_cons.mp his
    exact sameReg_trans (issue_sameReg i s hi herr hcode) (ih hrest)

theorem issue_resets (i : Instr) (s : State) : (issue i s).resets = s.resets := by
  cases hc : refusalCause i s with
  | none => rw [issue_of_accepts hc, executed_resets]
  | some c => rw [issue_of_refusalCause hc, raiseRefusal_resets]

theorem issueAll_resets {is : List Instr} : ∀ {s : State}, (issueAll is s).resets = s.resets := by
  induction is with
  | nil => intro s; rfl
  | cons i is ih => intro s; rw [issueAll_cons, ih, issue_resets]

/-- The refusal record after a sequence without a refusal: cleared if ERR_CLR is in it, else as before (44 R172). -/
theorem issueAll_record {is : List Instr} : ∀ {s : State}, (∀ r ∈ answers is s, r.rerr = false) →
    (Instr.errClr ∉ is → (issueAll is s).err = s.err ∧ (issueAll is s).errcode = s.errcode) ∧
    (Instr.errClr ∈ is → (issueAll is s).err = false ∧ (issueAll is s).errcode = none) := by
  induction is with
  | nil => intro s _; simp
  | cons i is ih =>
    intro s hok
    obtain ⟨hi, hrest⟩ := List.forall_mem_cons.mp hok
    obtain ⟨hkept, hcleared⟩ := ih hrest
    rw [issueAll_cons]
    rw [issue_of_accepts (accepts_of_answer_rerr hi)] at hkept hcleared ⊢
    by_cases hlast : Instr.errClr ∈ is
    · exact ⟨fun hnot => absurd (List.mem_cons_of_mem i hlast) hnot, fun _ => hcleared hlast⟩
    · obtain ⟨herr, hcode⟩ := hkept hlast
      rw [herr, hcode]
      refine ⟨fun hnot => ?_, fun hmem => ?_⟩
      · have hne : i ≠ .errClr := fun h => hnot (h ▸ List.mem_cons_self)
        exact ⟨executed_sameReg (r := .err) i s (hne ∘ err_mem_writtenBy.mp),
          executed_sameReg (r := .errcode) i s (hne ∘ errcode_mem_writtenBy.mp)⟩
      · obtain rfl : .errClr = i := (List.mem_cons.mp hmem).resolve_right hlast
        exact ⟨rfl, rfl⟩

/-! ### Harmless commands -/

/-- The state without the refusal record and the responses, which are all that a harmless command may write. -/
def State.unrecorded (s : State) : State := { s with err := false, errcode := Option.none, responses := [] }

theorem unrecorded_issue_of_harmless {i : Instr} (hi : harmless i = true) (s : State) :
    (issue i s).unrecorded = s.unrecorded := by
  cases i <;> cases hi <;> rfl

theorem answer_rerr_of_harmless {i : Instr} (hi : harmless i = true) (s : State) : (answer i s).rerr = false := by
  have ha : accepts i s := by cases i <;> cases hi <;> exact accepts_of_anyPhase rfl rfl s
  obtain ⟨v, hv⟩ := executed_responses i s
  rw [answer_of_responses (r := ⟨v, false⟩) (by rw [issue_of_accepts ha, hv])]

/-! No other command looks at what a harmless one may write. -/

theorem padFrom_unrecorded {n : Nat} : ∀ {i : Nat} {s : State},
    padFrom i n s.unrecorded = (padFrom i n s).unrecorded := by
  induction n with
  | zero => intro i s; rfl
  | succ n ih => intro i s; exact ih (s := feed Config.pad (storeBuf (bufAddr i) Config.pad s))

theorem recvByte_unrecorded (b : Byte) (s : State) : recvByte b s.unrecorded = (recvByte b s).unrecorded := by
  have hpayload : recvPayload b s.unrecorded = (recvPayload b s).unrecorded := by
    by_cases hstores : recvStores s.cnt = true
    · rw [recvPayload, recvPayload, if_pos hstores]
      exact if_pos hstores
    · rw [recvPayload, recvPayload, if_neg hstores]
      exact if_neg hstores
  simp only [recvByte, hpayload]
  rfl

theorem executed_unrecorded {i : Instr} (hi : harmless i = false) (s : State) : ∃ r,
    (executed i s).responses = s.responses ++ [r] ∧
    executed i s.unrecorded = { (executed i s).unrecorded with responses := [r] } := by
  cases i
  case nop | errClr | statusRd | sumRd | crcRd | decBlkRd => cases hi
  case encEnd =>
    exact ⟨⟨0x0000#16, false⟩, by simp [executed], by simp only [executed, padFrom_unrecorded]; rfl⟩
  case decData b =>
    by_cases hfull : s.cnt.toNat = Config.remLen s.mode
    · rw [executed_decData_full b hfull, executed_decData_full (s := s.unrecorded) b hfull]
      exact ⟨_, rfl, rfl⟩
    · rw [executed_decData_room b hfull, executed_decData_room (s := s.unrecorded) b hfull, recvByte_unrecorded]
      exact ⟨_, by rw [accept_responses, recvByte_responses], rfl⟩
  all_goals exact ⟨_, rfl, rfl⟩

theorem issue_unrecorded {i : Instr} (hi : harmless i = false) (s : State) :
    (issue i s.unrecorded).unrecorded = (issue i s).unrecorded ∧ answer i s.unrecorded = answer i s := by
  cases hc : refusalCause i s with
  | none =>
    obtain ⟨r, hr, hstate⟩ := executed_unrecorded hi s
    have hhere : issue i s = executed i s := issue_of_accepts hc
    have hthere : issue i s.unrecorded = { (executed i s).unrecorded with responses := [r] } :=
      (issue_of_accepts (s := s.unrecorded) hc).trans hstate
    rw [answer_of_responses ((congrArg State.responses hhere).trans hr),
      answer_of_responses (r := r) (congrArg State.responses hthere), hhere, hthere]
    exact ⟨rfl, rfl⟩
  | some c =>
    have hhere : issue i s = raiseRefusal c s := issue_of_refusalCause hc
    have hthere : issue i s.unrecorded = raiseRefusal c s.unrecorded := issue_of_refusalCause (s := s.unrecorded) hc
    rw [answer_of_responses (congrArg State.responses hhere), answer_of_responses (congrArg State.responses hthere),
      hhere, hthere]
    exact ⟨rfl, rfl⟩

/-- The commands of a sequence that are not harmless. -/
def essential (is : List Instr) : List Instr := is.filter fun i => !harmless i

theorem essential_cons_of_harmless {i : Instr} (hi : harmless i = true) (is : List Instr) :
    essential (i :: is) = essential is := by
  simp [essential, hi]

theorem essential_cons_of_not_harmless {i : Instr} (hi : harmless i = false) (is : List Instr) :
    essential (i :: is) = i :: essential is := by
  simp [essential, hi]

/-- A sequence with harmless commands interleaved does what it does without them, its other commands are answered as
they are without them, and it is accepted if it is accepted without them. -/
theorem issueAll_interleaved {is : List Instr} : ∀ {s t : State}, s.unrecorded = t.unrecorded →
    (issueAll is s).unrecorded = (issueAll (essential is) t).unrecorded ∧
    (is.zip (answers is s)).filter (fun x => !harmless x.1) = (essential is).zip (answers (essential is) t) ∧
    ((∀ r ∈ answers (essential is) t, r.rerr = false) → ∀ r ∈ answers is s, r.rerr = false) := by
  induction is with
  | nil => exact fun h => ⟨h, rfl, fun h => h⟩
  | cons i is ih =>
    intro s t h
    rw [answers, List.zip_cons_cons]
    cases hi : harmless i with
    | true =>
      obtain ⟨hstate, hanswers, hok⟩ := ih ((unrecorded_issue_of_harmless hi s).trans h)
      rw [essential_cons_of_harmless hi, List.filter_cons_of_neg (by simp [hi])]
      exact ⟨hstate, hanswers, fun hrest => List.forall_mem_cons.mpr ⟨answer_rerr_of_harmless hi s, hok hrest⟩⟩
    | false =>
      obtain ⟨hnext, hanswer⟩ := issue_unrecorded hi s
      obtain ⟨hnext', hanswer'⟩ := issue_unrecorded hi t
      rw [h] at hnext hanswer
      obtain ⟨hstate, hanswers, hok⟩ := ih (hnext.symm.trans hnext')
      rw [essential_cons_of_not_harmless hi, List.filter_cons_of_pos (by simp [hi]), answers, List.zip_cons_cons,
        ← hanswer, hanswer', hanswers]
      refine ⟨hstate, rfl, fun hall => ?_⟩
      obtain ⟨hfirst, hrest⟩ := List.forall_mem_cons.mp hall
      exact List.forall_mem_cons.mpr ⟨hfirst, hok hrest⟩

end Sys2Proof.Machine
end

section
/-! The law of the encoder (42 R137). -/

namespace Sys2Proof.Machine

/-! ### Loading the frame -/

theorem State.Filling.encDatas_responses {p : List Byte} : ∀ {s : State} {q : List Byte}, s.Filling q →
    q.length + p.length ≤ 128 →
    (issueAll (p.map .encData) s).responses = s.responses ++ List.replicate p.length ⟨0x0000#16, false⟩ := by
  induction p with
  | nil => intro s q _ _; simp
  | cons b p ih =>
    intro s q h hp
    rw [List.length_cons] at hp
    have hroom : s.cnt.toNat < 128 := by rw [h.cnt]; omega
    have hone : (issue (.encData b) s).responses = s.responses ++ [⟨0x0000#16, false⟩] := by
      rw [issue_of_accepts (accepts_encData h.phase hroom)]
      rfl
    rw [List.map_cons, issueAll_cons, ih (h.encData (by omega) b) (by simp; omega), hone]
    simp [List.replicate_succ]

/-- The frame of block `n` with payload `p` is loaded and no byte of it has been popped; besides, the state is `s` with
a frame operation opened (42 R132 to R134). -/
structure State.Loads (s u : State) (n : Byte) (p : List Byte) : Prop where
  phase : u.phase = .encOut
  cnt : u.cnt = 0x00#8
  holds : u.Holds (padTo128 p)
  blk : u.blk = n
  res : u.res = .none
  ovf : u.ovf = false
  mode : u.mode = s.mode
  cmp : u.cmp = s.cmp
  trl : u.trl = s.trl
  resets : u.resets = s.resets
  responses : u.responses = s.responses ++ List.replicate (p.length + 2) ⟨0x0000#16, false⟩

section Encode
variable {s : State} {p : List Byte} (n : Byte) (hidle : s.phase = .idle) (hp : p.length ≤ 128)
include hidle hp

/-- ENC_START, the payload and ENC_END are executed one after another. -/
theorem issueAll_fillSeq : ∃ u, u = issueAll (p.map .encData) (executed (.encStart n) s) ∧ u.Filling p ∧
    u.responses = s.responses ++ List.replicate (p.length + 1) ⟨0x0000#16, false⟩ ∧
    issueAll (fillSeq n p) s = executed .encEnd u := by
  have hstart : issue (.encStart n) s = executed (.encStart n) s := issue_of_accepts (accepts_of_phase rfl rfl hidle)
  have hopened : (executed (.encStart n) s).Filling [] := hstart ▸ filling_encStart n hidle
  have hfilled := hopened.encDatas (p := p) (by simpa using hp)
  refine ⟨_, rfl, hfilled, ?_, ?_⟩
  · rw [hopened.encDatas_responses (by simpa using hp), List.replicate_succ, List.append_cons]
    rfl
  · rw [fillSeq, List.cons_append, issueAll_cons, issueAll_append, hstart]
    exact issue_of_accepts (accepts_of_phase (i := .encEnd) rfl rfl hfilled.phase)

/-- The registers that ENC_DATA and ENC_END do not write keep what ENC_START gave them. -/
theorem sameReg_fillSeq : ∀ r ∈ [Reg.blk, .res, .ovf, .mode, .cmp, .trl],
    sameReg r (executed (.encStart n) s) (issueAll (fillSeq n p) s) := by
  intro r hr
  have hlisted : ∀ r ∈ [Reg.blk, .res, .ovf, .mode, .cmp, .trl],
      r ∉ [Reg.crc, .sum, .cnt] ∧ r ∉ writtenBy .encEnd ∧ r ≠ .err ∧ r ≠ .errcode := by decide
  obtain ⟨hdata, hend, herr, hcode⟩ := hlisted r hr
  obtain ⟨u, rfl, -, -, hseq⟩ := issueAll_fillSeq n hidle hp
  rw [hseq]
  have hpayload : ∀ i ∈ p.map Instr.encData, r ∉ writtenBy i := List.forall_mem_map.mpr fun _ _ => hdata
  exact sameReg_trans (issueAll_sameReg herr hcode hpayload) (executed_sameReg .encEnd _ hend)

theorem loads_fillSeq : s.Loads (issueAll (fillSeq n p) s) n p := by
  have hkept := sameReg_fillSeq n hidle hp
  obtain ⟨hphase, hholds⟩ := holds_fillSeq n hidle hp
  obtain ⟨u, -, -, hresponses, hseq⟩ := issueAll_fillSeq n hidle hp
  refine ⟨hphase, hseq ▸ rfl, hholds, hkept .blk (by decide), hkept .res (by decide), hkept .ovf (by decide),
    hkept .mode (by decide), hkept .cmp (by decide), hkept .trl (by decide), issueAll_resets, ?_⟩
  rw [hseq, List.replicate_succ', ← List.append_assoc, ← hresponses]
  simp [executed]

end Encode

/-! ### Popping it -/

/-- The first `k` ENC_POP answer the frame bytes of index 0 to `k - 1`, and the last of all returns the phase to IDLE
(42 R135). -/
theorem issueAll_encPops {u : State} (hphase : u.phase = .encOut) (hcnt : u.cnt = 0x00#8) : ∀ {k : Nat},
    k ≤ Config.frameLen u.mode → issueAll (List.replicate k .encPop) u = { u with
      cnt := BitVec.ofNat 8 k
      phase := if k = Config.frameLen u.mode then .idle else .encOut
      responses := u.responses ++ (List.range k).map fun j => ⟨zext (frameByte u j), false⟩ } := by
  intro k
  induction k with
  | zero =>
    intro _
    have hframe : 0 ≠ Config.frameLen u.mode := by cases u.mode <;> decide
    simp [hframe, ← hphase, ← hcnt]
  | succ k ih =>
    intro hk
    have hframe := frameLen_le u.mode
    have hnat : (BitVec.ofNat 8 k).toNat = k := Nat.mod_eq_of_lt (by omega)
    have hmore : k ≠ Config.frameLen u.mode := by omega
    rw [List.replicate_succ', issueAll_append, ih (by omega), issueAll_cons, issueAll_nil, if_neg hmore,
      issue_of_accepts (accepts_of_phase rfl rfl rfl), executed, byte_add_one_eq_ofNat, List.range_succ,
      List.map_append, ← List.append_assoc]
    simp only [hnat]
    rfl

/-- A whole encode: its commands are answered 0 while the frame is loaded and then with the frame, and it ends in IDLE
(42 R137). -/
theorem issueAll_encodeSeq (n : Byte) {p : List Byte} {s : State} (hidle : s.phase = .idle) (hp : p.length ≤ 128) :
    ∃ u, s.Loads u n p ∧ issueAll (encodeSeq s.mode n p) s = { u with
      cnt := BitVec.ofNat 8 (Config.frameLen s.mode), phase := .idle
      responses := s.responses ++ (List.replicate (p.length + 2) ⟨0x0000#16, false⟩ ++
        (encodeFrame s.mode n p).map fun b => ⟨zext b, false⟩) } := by
  have hloads := loads_fillSeq n hidle hp
  have hlength : Config.frameLen s.mode = Config.frameLen (issueAll (fillSeq n p) s).mode :=
    congrArg Config.frameLen hloads.mode.symm
  have hframe := map_frameByte_eq_encodeFrame hloads.holds hp
  rw [← hlength, hloads.mode, hloads.blk] at hframe
  refine ⟨_, hloads, ?_⟩
  rw [encodeSeq, issueAll_append, issueAll_encPops hloads.phase hloads.cnt hlength.le, if_pos hlength, hloads.responses,
    ← hframe, List.map_map, List.append_assoc]
  rfl

theorem answers_encodeSeq (n : Byte) {p : List Byte} {s : State} (hidle : s.phase = .idle) (hp : p.length ≤ 128) :
    answers (encodeSeq s.mode n p) s = List.replicate (p.length + 2) ⟨0x0000#16, false⟩ ++
      (encodeFrame s.mode n p).map fun b => ⟨zext b, false⟩ := by
  obtain ⟨u, -, hstate⟩ := issueAll_encodeSeq n hidle hp
  exact answers_of_responses (congrArg State.responses hstate)

/-! ### The statement -/

/-- The answers to the ENC_POP of an encode are the frame (42 R137). -/
theorem popAnswers_encodeSeq (n : Byte) {p : List Byte} {s : State} (hidle : s.phase = .idle) (hp : p.length ≤ 128) :
    (((encodeSeq s.mode n p).zip (answers (encodeSeq s.mode n p) s)).filter fun x => x.1 = Instr.encPop).map Prod.snd =
      (encodeFrame s.mode n p).map fun b => ⟨zext b, false⟩ := by
  have hnone : ((fillSeq n p).zip (List.replicate (p.length + 2) (⟨0x0000#16, false⟩ : Response))).filter
      (fun x => x.1 = Instr.encPop) = [] := by
    rw [List.filter_eq_nil_iff]
    intro x hx
    have hfill : x.1 ∈ fillSeq n p := (List.of_mem_zip hx).1
    rw [decide_eq_true_iff]
    intro hpop
    simp [fillSeq, hpop] at hfill
  have hall : ∀ rs : List Response, ((List.replicate (Config.frameLen s.mode) Instr.encPop).zip rs).filter
      (fun x => x.1 = Instr.encPop) = (List.replicate (Config.frameLen s.mode) Instr.encPop).zip rs := by
    intro rs
    rw [List.filter_eq_self]
    exact fun x hx => decide_eq_true (List.eq_of_mem_replicate (List.of_mem_zip hx).1)
  rw [answers_encodeSeq n hidle hp, encodeSeq, List.zip_append (by simp [fillSeq]), List.filter_append, hnone, hall,
    List.nil_append, List.map_snd_zip (by simp [encodeFrame_length _ _ hp])]

/-- ENC_POP is not harmless, so no pop is lost with the harmless commands. -/
theorem filter_encPop_filter_not_harmless (xs : List (Instr × Response)) :
    (xs.filter fun x => !harmless x.1).filter (fun x => x.1 = Instr.encPop) =
      xs.filter fun x => x.1 = Instr.encPop := by
  rw [List.filter_filter]
  refine List.filter_congr fun x _ => ?_
  by_cases hpop : x.1 = Instr.encPop <;> simp [hpop, harmless]

/-- Settles O52: what is not harmless among the commands is the plain sequence, whose pops answer the frame. -/
theorem encoderSequenceEmitsTheFrame : Obligations.EncoderSequenceEmitsTheFrame := by
  rintro m n p is s rest hidle rfl hp hseq hport
  obtain ⟨u, hloads, hplain⟩ := issueAll_encodeSeq n hidle hp
  obtain ⟨hstate, hanswers, hok⟩ := issueAll_interleaved (is := is) (s := s) rfl
  rw [essential, hseq] at hstate hanswers hok
  rw [hplain] at hstate
  have hcnt : (BitVec.ofNat 8 (Config.frameLen s.mode)).toNat = Config.frameLen s.mode := by
    cases s.mode <;> decide
  have haccepted : ∀ r ∈ answers is s, r.rerr = false := hok (by rw [answers_encodeSeq n hidle hp]; simp)
  obtain ⟨hkept, hcleared⟩ := issueAll_record haccepted
  refine ⟨_, answers is s, runSteps_commandEvents hport rfl, rfl, issueAll_responses, length_answers, haccepted, ?_,
    congrArg State.phase hstate, (congrArg State.blk hstate).trans hloads.blk,
    (congrArg (State.payload · 128) hstate).trans (hloads.holds.payload_padTo128 hp),
    (congrArg State.crc hstate).trans hloads.holds.crc_eq, (congrArg State.sum hstate).trans hloads.holds.sum_eq,
    (congrArg (·.cnt.toNat) hstate).trans hcnt, (congrArg State.res hstate).trans hloads.res,
    (congrArg State.ovf hstate).trans hloads.ovf, (congrArg State.mode hstate).trans hloads.mode,
    (congrArg State.cmp hstate).trans hloads.cmp, (congrArg State.trl hstate).trans hloads.trl,
    (congrArg State.resets hstate).trans hloads.resets,
    hkept, hcleared⟩
  have hpops := popAnswers_encodeSeq n hidle hp
  rw [← hanswers, filter_encPop_filter_not_harmless] at hpops
  have hbytes := congrArg (List.map fun r : Response => r.rdata.lo) hpops
  rw [List.map_map, List.map_map] at hbytes
  refine Eq.trans hbytes ?_
  simp [Function.comp_def, lo_zext]

end Sys2Proof.Machine
end

section
/-! What a decode holds and answers (43 R150 to R156): BLK, CMP, TRL and OVF are those of the bytes given so far, so the
verdict is that of `decode` on them. -/

namespace Sys2Proof.Machine

/-! ### The registers of a decode -/

theorem hi_append (a b : Byte) : Word.hi (a ++ b) = a := BitVec.extractLsb'_append_eq_left

theorem lo_append (a b : Byte) : Word.lo (a ++ b) = b := BitVec.extractLsb'_append_eq_right

/-- The trailer bytes that TRL holds, in the order of their arrival (10_state R26). -/
def heldTrailer (m : Mode) (trl : Word) : List Byte :=
  match m with
  | .checksum => [trl.lo]
  | .crc16 => [trl.hi, trl.lo]

@[simp] theorem heldTrailer_length (m : Mode) (trl : Word) : (heldTrailer m trl).length = Config.trailerLen m := by
  cases m <;> rfl

/-- BLK, CMP, TRL and OVF are those of the bytes `f` given to the decoder so far, excess bytes included (43 R152). -/
structure State.Captures (s : State) (f : List Byte) : Prop where
  header : f.take 2 = [s.blk, s.cmp].take f.length
  trailer : (f.drop 130).take (Config.trailerLen s.mode) = (heldTrailer s.mode s.trl).take (f.length - 130)
  ovf : s.ovf = decide (Config.remLen s.mode < f.length)

theorem take_two_snoc {f : List Byte} {x y : Byte} (h : f.take 2 = [x, y].take f.length) (b : Byte) :
    (f ++ [b]).take 2 = [if f.length = 0 then b else x, if f.length = 1 then b else y].take (f ++ [b]).length := by
  rcases f with _ | ⟨a, _ | ⟨c, f⟩⟩ <;> simp_all

theorem remLen_eq_add_trailerLen (m : Mode) : Config.remLen m = 130 + Config.trailerLen m := by
  cases m <;> rfl

/-- After one more byte the trailer bytes given are still the first of those that TRL holds (43 R152). -/
theorem trailer_snoc {m : Mode} {f : List Byte} {trl : Word} (hroom : f.length < Config.remLen m)
    (h : (f.drop 130).take (Config.trailerLen m) = (heldTrailer m trl).take (f.length - 130)) (b : Byte) :
    ((f ++ [b]).drop 130).take (Config.trailerLen m) =
      (heldTrailer m (trlAfter m f.length b trl)).take ((f ++ [b]).length - 130) := by
  rw [List.length_append, List.length_singleton]
  obtain hbefore | hfirst | hsecond : f.length < 130 ∨ f.length = 130 ∨ f.length = 131 := by
    have := remLen_le m
    omega
  · rw [List.drop_of_length_le (by simp; omega), Nat.sub_eq_zero_of_le (by omega)]
    simp
  · rw [List.drop_left' hfirst, hfirst]
    cases m with
    | checksum => simp [trlAfter, heldTrailer, Config.trailerLen, lo_zext]
    | crc16 => simp [trlAfter, heldTrailer, Config.trailerLen, hi_append]
  · cases m with
    | checksum => exact absurd hroom (by rw [hsecond]; decide)
    | crc16 =>
      rw [List.drop_append_of_le_length (by omega), hsecond]
      have hone : f.drop 130 = [trl.hi] := by
        rwa [List.take_of_length_le (by simp [hsecond, Config.trailerLen]), hsecond] at h
      simp [hone, trlAfter, heldTrailer, Config.trailerLen, hi_append, lo_append]

theorem captures_decStart {s : State} (hidle : s.phase = .idle) : (issue .decStart s).Captures [] := by
  rw [issue_of_accepts (accepts_of_phase rfl rfl hidle)]
  exact ⟨rfl, by simp, by simp [executed]⟩

theorem State.Captures.decData {s : State} {f : List Byte} (h : s.Captures f) (hreceiving : s.Receiving f) (b : Byte) :
    (issue (.decData b) s).Captures (f ++ [b]) := by
  have hcnt := hreceiving.cnt
  have hrem := le_remLen s.mode
  have hheader := take_two_snoc h.header b
  rw [issue_of_accepts (accepts_of_phase rfl rfl hreceiving.phase)]
  by_cases hfull : s.cnt.toNat = Config.remLen s.mode
  · rw [executed_decData_full b hfull]
    rw [if_neg (by omega), if_neg (by omega)] at hheader
    have hsum := remLen_eq_add_trailerLen s.mode
    have hbytes : ((f ++ [b]).drop 130).take (Config.trailerLen s.mode) =
        (f.drop 130).take (Config.trailerLen s.mode) := by
      rw [List.drop_append_of_le_length (by omega), List.take_append_of_le_length (by simp; omega)]
    have hheld : (heldTrailer s.mode s.trl).take (f.length - 130) =
        (heldTrailer s.mode s.trl).take ((f ++ [b]).length - 130) := by
      rw [List.take_of_length_le (by simp; omega), List.take_of_length_le (by simp; omega)]
    refine ⟨hheader, hbytes.trans (h.trailer.trans hheld), ?_⟩
    rw [List.length_append, List.length_singleton]
    exact (decide_eq_true (show Config.remLen s.mode < f.length + 1 by omega)).symm
  · have hhere : s.cnt.toNat = f.length := by omega
    have htrailer := trailer_snoc (by omega) h.trailer b
    rw [← hhere] at hheader htrailer
    rw [executed_decData_room b hfull]
    refine ⟨hheader, ?_, ?_⟩
    · rw [accept_mode, recvByte_mode]
      exact htrailer
    · rw [accept_ovf, recvByte_ovf, h.ovf, accept_mode, recvByte_mode, List.length_append, List.length_singleton]
      exact decide_eq_decide.mpr (by omega)

theorem State.Captures.decDatas {g : List Byte} : ∀ {s : State} {f : List Byte}, s.Captures f → s.Receiving f →
    (issueAll (g.map .decData) s).Captures (f ++ g) := by
  induction g with
  | nil => intro s f h _; simpa using h
  | cons b g ih =>
    intro s f h hreceiving
    simpa using ih (h.decData hreceiving b) (hreceiving.decData b)

theorem captures_receiveSeq (f : List Byte) {s : State} (hidle : s.phase = .idle) :
    (issueAll (receiveSeq f) s).Captures f :=
  (captures_decStart hidle).decDatas (receiving_decStart hidle)

/-! ### The verdict -/

theorem State.Captures.header_bytes {s : State} {f : List Byte} (h : s.Captures f) (hlength : 2 ≤ f.length) :
    f.getD 0 0 = s.blk ∧ f.getD 1 0 = s.cmp := by
  have hheader := h.header
  rw [List.take_of_length_le (l := [s.blk, s.cmp]) hlength] at hheader
  rcases f with _ | ⟨a, _ | ⟨c, f⟩⟩ <;> simp_all

theorem word_eq_iff (c d : Word) : c = d ↔ c.hi = d.hi ∧ c.lo = d.lo := by
  refine ⟨by rintro rfl; exact ⟨rfl, rfl⟩, fun ⟨hhi, hlo⟩ => ?_⟩
  rw [← extractLsb'_append_extractLsb'_zero (m := 8) (n := 8) c,
    ← extractLsb'_append_extractLsb'_zero (m := 8) (n := 8) d]
  exact congrArg₂ _ hhi hlo

/-- Line 3 of the verdict compares the trailer held with the one recomputed (43 R155). -/
theorem trailerDiffers_iff {s : State} {q : List Byte} (h : s.Holds q) :
    trailerDiffers s = true ↔ heldTrailer s.mode s.trl ≠ trailer s.mode q := by
  unfold trailerDiffers
  split
  · rename_i hm
    simp [hm, heldTrailer, trailer, h.sum_eq]
  · rename_i hm
    simp [hm, heldTrailer, trailer, h.crc_eq, word_eq_iff]

/-- The four lines of the verdict are the three checks of `decode` and its success (43 R150, R155). -/
theorem verdict_code_eq {s : State} {f : List Byte} (hreceiving : s.Receiving f) (hcaptures : s.Captures f) :
    (verdict s).code.setWidth 16 = (decodeFrame s.mode f).code := by
  have hcnt := hreceiving.cnt
  have hrem := le_remLen s.mode
  have hlength : (s.ovf = true ∨ s.cnt.toNat ≠ Config.remLen s.mode) ↔ f.length ≠ Config.remLen s.mode := by
    rw [hcaptures.ovf, decide_eq_true_iff]
    omega
  rw [verdict, decodeFrame, if_congr hlength rfl rfl]
  by_cases hwrong : f.length ≠ Config.remLen s.mode
  · rw [if_pos hwrong, if_pos hwrong]
    rfl
  · rw [not_not] at hwrong
    obtain ⟨hblk, hcmp⟩ := hcaptures.header_bytes (by omega)
    have hsum := remLen_eq_add_trailerLen s.mode
    have htrailer : f.drop 130 = heldTrailer s.mode s.trl := by
      have hall := hcaptures.trailer
      rwa [List.take_of_length_le (by simp; omega), List.take_of_length_le (by simp; omega)] at hall
    have hdiffers := trailerDiffers_iff hreceiving.holds
    rw [receivedPayload] at hdiffers
    rw [if_neg (not_not_intro hwrong), if_neg (not_not_intro hwrong), hblk, hcmp, htrailer, if_congr hdiffers rfl rfl]
    split
    · rfl
    · split <;> rfl

/-- DEC_START, the bytes and DEC_END: the decode that is closed holds the bytes given (43 R156). -/
theorem issueAll_decodeSeq (f : List Byte) {s : State} (hidle : s.phase = .idle) : ∃ u : State,
    u = issueAll (receiveSeq f) s ∧ u.Receiving f ∧ u.Captures f ∧ u.mode = s.mode ∧
    issueAll (decodeSeq f) s = executed .decEnd u := by
  have hreceiving := receiving_receiveSeq f hidle
  have hmode : sameReg .mode s (issueAll (receiveSeq f) s) := by
    refine issueAll_sameReg (r := .mode) nofun nofun (List.forall_mem_cons.mpr ⟨by decide, ?_⟩)
    rw [List.forall_mem_map]
    exact fun b _ => by simp [writtenBy]
  refine ⟨_, rfl, hreceiving, captures_receiveSeq f hidle, hmode, ?_⟩
  rw [decodeSeq, issueAll_append]
  exact issue_of_accepts (accepts_of_phase (i := .decEnd) rfl rfl hreceiving.phase)

/-- `decode` succeeds only on a whole remainder, and then with its first byte and its payload (43 R150). -/
theorem of_decodeFrame_eq_ok {m : Mode} {f : List Byte} {n : Byte} {q : List Byte} (h : decodeFrame m f = .ok n q) :
    f.length = Config.remLen m ∧ f.getD 0 0 = n ∧ receivedPayload f = q := by
  unfold decodeFrame at h
  split_ifs at h with hlength
  cases h
  exact ⟨not_not.mp hlength, rfl, rfl⟩

end Sys2Proof.Machine
end

section
/-! The host's codec functions (45 R211): what they give, and the round trip from one block to another (43 R157). -/

namespace Sys2Proof.Machine

/-- The codec's encoder is `encode` (42 R137). -/
theorem codecEncode_bytes (n : Byte) {p : List Byte} {s : State} (hidle : s.phase = .idle) (hp : p.length ≤ 128) :
    (codecEncode n p s).2 = encodeFrame s.mode n p := by
  rw [codecEncode, answersSince_issueAll, answers_encodeSeq n hidle hp, List.drop_left' (by simp), List.map_map]
  simp [Function.comp_def, lo_zext]

/-- The codec's decoder answers the code of `decode` (43 R156). -/
theorem codecDecode_rdata (f : List Byte) {s : State} (hidle : s.phase = .idle) :
    (codecDecode f s).2 = (decodeFrame s.mode f).code := by
  obtain ⟨u, hu, hreceiving, hcaptures, hmode, -⟩ := issueAll_decodeSeq f hidle
  have hclosed : answer .decEnd u = ⟨(verdict u).code.setWidth 16, false⟩ := by
    refine answer_of_responses ?_
    rw [issue_of_accepts (accepts_of_phase rfl rfl hreceiving.phase)]
    rfl
  rw [codecDecode, lastAnswer, answersSince_issueAll, decodeSeq, answers_append, ← hu, answers, answers, hclosed,
    List.getLastD_concat, ← hmode]
  exact verdict_code_eq hreceiving hcaptures

/-- On success the block is back in IDLE and holds the decoded frame's payload (43 R156). -/
theorem codecDecode_of_ok {f : List Byte} {n : Byte} {q : List Byte} {s : State} (hidle : s.phase = .idle)
    (hok : decodeFrame s.mode f = .ok n q) :
    (codecDecode f s).1.phase = .idle ∧ (codecDecode f s).1.res = .ok ∧ (codecDecode f s).1.blk = n ∧
      (codecDecode f s).1.payload 128 = q := by
  obtain ⟨u, -, hreceiving, hcaptures, hmode, hstate⟩ := issueAll_decodeSeq f hidle
  obtain ⟨hlength, rfl, rfl⟩ := of_decodeFrame_eq_ok hok
  have hrem := le_remLen s.mode
  have hcode := verdict_code_eq hreceiving hcaptures
  rw [hmode, hok, DecodeResult.code] at hcode
  have hverdict : verdict u = .ok := by
    revert hcode
    cases verdict u <;> decide
  have hpayload : (receivedPayload f).length = 128 := by rw [receivedPayload_length]; omega
  rw [codecDecode, hstate]
  refine ⟨rfl, hverdict, (hcaptures.header_bytes (by omega)).1.symm, ?_⟩
  rw [← hpayload]
  exact hreceiving.holds.payload

/-- BUF_RD after BUF_RD in IDLE: each answers its byte (44 R175). -/
theorem answers_bufRds {as : List Addr} : ∀ {s : State}, s.phase = .idle →
    answers (as.map .bufRd) s = as.map fun a => ⟨zext (s.readBuf a), false⟩ := by
  induction as with
  | nil => intro s _; rfl
  | cons a as ih =>
    intro s hidle
    have hread : issue (.bufRd a) s = executed (.bufRd a) s := issue_of_accepts (accepts_of_phase rfl rfl hidle)
    have hanswer : answer (.bufRd a) s = ⟨zext (s.readBuf a), false⟩ :=
      answer_of_responses (congrArg State.responses hread)
    rw [List.map_cons, answers, hanswer, hread, ih (s := executed (.bufRd a) s) hidle]
    rfl

/-- The readout of a block gives BLK and the payload (30_encoding R87). -/
theorem codecReadout_block {s : State} (hidle : s.phase = .idle) :
    (codecReadout s).2 = (s.blk, s.payload 128) := by
  have hblock : codecBlock s = (executed .decBlkRd s, s.blk) := by
    have hread : issue .decBlkRd s = executed .decBlkRd s := rfl
    simp [codecBlock, hread, lastAnswer, answersSince, executed, lo_zext]
  have hseq : payloadSeq = ((List.range 128).map bufAddr).map .bufRd := by
    rw [payloadSeq, Config.payloadLen, List.map_map]
    rfl
  have hpayload : (codecPayload (executed .decBlkRd s)).2 = s.payload 128 := by
    rw [codecPayload, answersSince_issueAll, hseq, answers_bufRds (s := executed .decBlkRd s) hidle, List.map_map,
      List.map_map]
    simp [Function.comp_def, lo_zext, State.payload, executed]
  rw [codecReadout, hblock, hpayload]

/-- Settles O55: the frame popped is `encode`'s, and `decode` inverts it. -/
theorem decodeInvertsEncode : Obligations.DecodeInvertsEncode := by
  refine ⟨fun m n p hp => decodeFrame_encodeFrame m n hp, fun n p s u hs hu hmode hp => ?_⟩
  have hok := decodeFrame_encodeFrame u.mode n hp
  obtain ⟨hidle, hres, hblk, hpayload⟩ := codecDecode_of_ok hu hok
  rw [codecEncode_bytes n hs hp, ← hmode]
  refine ⟨(of_decodeFrame_eq_ok hok).1, ?_, hres, hblk, hpayload, ?_⟩
  · rw [codecDecode_rdata _ hu, hok]
    rfl
  · rw [codecReadout_block hidle, hblk, hpayload]

end Sys2Proof.Machine
end

section
/-! The decoder's four commands as single commands (43 R151 to R155). -/

namespace Sys2Proof.Machine

/-! ### DEC_START and DEC_BLK_RD -/

theorem decode_decStartWord (arg : Byte) : decode (cmdWord 0x40#8 arg) = decodeN arg .decStart := decode_cmdWord _ _

theorem decode_decBlkRdWord (arg : Byte) : decode (cmdWord 0x43#8 arg) = decodeN arg .decBlkRd := decode_cmdWord _ _

/-- Settles O27: DEC_START is executed in IDLE and refused elsewhere, and its word is of format N. -/
theorem decStartOpensADecode : Obligations.DecStartOpensADecode :=
  ⟨fun _ hidle => exec_of_accepts (accepts_of_phase rfl rfl hidle), fun _ => exec_of_wrongPhase rfl,
   decode_decStartWord, fun arg => refusedAtPort_of_decodeN (decode_decStartWord arg)⟩

/-- Settles O30: DEC_BLK_RD is executed in every phase, and its word is of format N. -/
theorem decBlkRdReturnsBlk : Obligations.DecBlkRdReturnsBlk := by
  refine ⟨fun s => ?_, decode_decBlkRdWord, fun arg => refusedAtPort_of_decodeN (decode_decBlkRdWord arg)⟩
  rw [← zext_eq_append]
  exact exec_of_accepts (accepts_of_anyPhase rfl rfl s)

/-! ### DEC_DATA -/

/-- TRL takes a byte at positions 130 and 131 only (43 R152). -/
theorem trlAfter_of_lt {k : Nat} (hk : k < 130) (m : Mode) (b : Byte) (trl : Word) : trlAfter m k b trl = trl := by
  cases m with
  | checksum => exact if_neg (by omega)
  | crc16 => exact (if_neg (by omega)).trans (if_neg (by omega))

theorem ne_remLen_of_le {k : Nat} (hk : k ≤ 130) (m : Mode) : k ≠ Config.remLen m := by
  have hrem := le_remLen m
  omega

section DecData
variable (b : Byte) {s : State} (hphase : s.phase = .decIn)
include hphase

theorem exec_decData_room (hroom : s.cnt.toNat ≠ Config.remLen s.mode) :
    exec (.decData b) s = .next (accept (recvByte b s)) := by
  rw [exec_of_accepts (accepts_of_phase rfl rfl hphase), executed_decData_room b hroom]

/-- Outside the payload the byte goes to BLK, CMP or TRL by its position, and PBUF and the accumulators stay
(43 R152). -/
theorem exec_decData_of_not_stored {k : Nat} (hcnt : s.cnt.toNat = k) (hroom : k ≠ Config.remLen s.mode)
    (hk : ¬ (2 ≤ k ∧ k ≤ 129)) : exec (.decData b) s = .next { s with
      blk := if k = 0 then b else s.blk
      cmp := if k = 1 then b else s.cmp
      trl := trlAfter s.mode k b s.trl
      cnt := BitVec.ofNat 8 (k + 1)
      responses := s.responses ++ [⟨0x0000#16, false⟩] } := by
  subst hcnt
  rw [exec_decData_room b hphase hroom, recvByte, recvPayload, if_neg (recvStores_iff.not.mpr hk),
    byte_add_one_eq_ofNat]
  rfl

/-- A payload byte is stored at CNT - 2 and fed to the accumulators (43 R152). -/
theorem exec_decData_of_stored (hlow : 2 ≤ s.cnt.toNat) (hhigh : s.cnt.toNat ≤ 129) :
    exec (.decData b) s = .next { s with
      pbuf := Memory.write s.pbuf (s.cnt.toNat - 2) b
      crc := crcUpdate s.crc b
      sum := s.sum + b
      cnt := s.cnt + 1
      responses := s.responses ++ [⟨0x0000#16, false⟩] } := by
  rw [exec_decData_room b hphase (ne_remLen_of_le (by omega) s.mode), recvByte, recvPayload,
    if_pos (recvStores_iff.mpr ⟨hlow, hhigh⟩), if_neg (by omega), if_neg (by omega), trlAfter_of_lt (by omega),
    storeBuf, recvAddr, bufAddr_toNat (by omega)]
  rfl

end DecData

/-- Settles O28, position by position. -/
theorem decDataTakesAFrameByte : Obligations.DecDataTakesAFrameByte := by
  refine ⟨fun b s hphase hfull => ?_, fun b s hphase hcnt => ?_, fun b s hphase hcnt => ?_,
    fun b s hphase hlow hhigh => ⟨_, ?_, get?_write s.pbuf (s.cnt.toNat - 2) b⟩, fun b s hphase hcnt hm => ?_,
    fun b s hphase hcnt hm => ?_, fun b s hphase hcnt hm => ?_, fun _ _ => exec_of_wrongPhase rfl,
    fun b => decode_encode (.decData b)⟩
  · rw [exec_of_accepts (accepts_of_phase rfl rfl hphase),
      executed_decData_full b (hfull.trans (remLen_eq s.mode).symm)]
    rfl
  · rw [exec_decData_of_not_stored b hphase hcnt (ne_remLen_of_le (by omega) s.mode) (by omega),
      trlAfter_of_lt (by omega)]
    rfl
  · rw [exec_decData_of_not_stored b hphase hcnt (ne_remLen_of_le (by omega) s.mode) (by omega),
      trlAfter_of_lt (by omega)]
    rfl
  · rw [exec_decData_of_stored b hphase hlow hhigh, ← byte_add_eq_ofNat, ← byte_add_one_eq_ofNat]
  · rw [exec_decData_of_not_stored b hphase hcnt (ne_remLen_of_le (by omega) s.mode) (by omega), ← zext_eq_append, hm]
    rfl
  · rw [exec_decData_of_not_stored b hphase hcnt (ne_remLen_of_le (by omega) s.mode) (by omega), hm]
    rfl
  · rw [exec_decData_of_not_stored b hphase hcnt (by rw [hm]; decide) (by omega), hm]
    rfl

/-! ### DEC_END -/

theorem decode_decEndWord (arg : Byte) : decode (cmdWord 0x42#8 arg) = decodeN arg .decEnd := decode_cmdWord _ _

theorem exec_decEnd {s : State} {v : Verdict} (hphase : s.phase = .decIn) (hv : verdict s = v) :
    exec .decEnd s = .next { s with
      res := v, phase := .idle, responses := s.responses ++ [⟨v.code.setWidth 16, false⟩] } := by
  rw [exec_of_accepts (accepts_of_phase rfl rfl hphase), executed, hv]
  rfl

/-- Line 2 of the verdict in numbers (43 R155). -/
theorem byte_add_ne_255_iff (x y : Byte) : x + y ≠ 255#8 ↔ (x.toNat + y.toNat) % 256 ≠ 255 := by
  rw [ne_eq, ← BitVec.toNat_inj, BitVec.toNat_add]
  rfl

/-- Line 3 of the verdict, by mode (43 R155). -/
theorem trailerDiffers_iff_mode (s : State) : trailerDiffers s = true ↔
    (s.mode = .checksum ∧ s.trl.lo ≠ s.sum) ∨ (s.mode = .crc16 ∧ s.trl ≠ s.crc) := by
  unfold trailerDiffers
  split <;> simp [*]

/-- The four lines of R155 with their conditions in numbers. -/
theorem verdict_eq (s : State) : verdict s =
    if s.ovf = true ∨ s.cnt.toNat ≠ (if s.mode = .checksum then 131 else 132) then .badLen
    else if (s.blk.toNat + s.cmp.toNat) % 256 ≠ 255 then .badPair
    else if (s.mode = .checksum ∧ s.trl.lo ≠ s.sum) ∨ (s.mode = .crc16 ∧ s.trl ≠ s.crc) then .trlMismatch
    else .ok := by
  rw [verdict, ← remLen_eq,
    if_congr (byte_add_ne_255_iff s.blk s.cmp) rfl (if_congr (trailerDiffers_iff_mode s) rfl rfl)]

/-- Settles O29: DEC_END answers `verdict`, whose lines are taken one after another. -/
theorem decEndGivesTheVerdict : Obligations.DecEndGivesTheVerdict := by
  refine ⟨fun s hphase => ⟨fun hlen => ?_, fun hlen hpair => ?_, fun hlen hpair htrl => ?_, fun hlen hpair htrl => ?_⟩,
    fun _ => exec_of_wrongPhase rfl, decode_decEndWord, fun arg => refusedAtPort_of_decodeN (decode_decEndWord arg)⟩
  · exact exec_decEnd hphase ((verdict_eq s).trans (if_pos hlen))
  · exact exec_decEnd hphase ((verdict_eq s).trans ((if_neg hlen).trans (if_pos hpair)))
  · exact exec_decEnd hphase ((verdict_eq s).trans ((if_neg hlen).trans ((if_neg hpair).trans (if_pos htrl))))
  · exact exec_decEnd hphase ((verdict_eq s).trans ((if_neg hlen).trans ((if_neg hpair).trans (if_neg htrl))))

end Sys2Proof.Machine
end

section
/-! The law of the decoder (43 R156). -/

namespace Sys2Proof.Machine

/-! ### The responses -/

theorem answer_decData (b : Byte) {s : State} (hphase : s.phase = .decIn) :
    answer (.decData b) s = ⟨0x0000#16, false⟩ := by
  refine answer_of_responses ?_
  rw [issue_of_accepts (accepts_of_phase rfl rfl hphase)]
  by_cases hfull : s.cnt.toNat = Config.remLen s.mode
  · rw [executed_decData_full b hfull]
    rfl
  · rw [executed_decData_room b hfull, accept_responses, recvByte_responses]

/-- Every byte of a remainder is accepted, excess bytes included (43 R152). -/
theorem State.Receiving.answers_decDatas {g : List Byte} : ∀ {s : State} {f : List Byte}, s.Receiving f →
    answers (g.map .decData) s = List.replicate g.length ⟨0x0000#16, false⟩ := by
  induction g with
  | nil => intro s f _; rfl
  | cons b g ih =>
    intro s f h
    rw [List.map_cons, answers, answer_decData b h.phase, ih (h.decData b)]
    rfl

theorem answers_receiveSeq (f : List Byte) {s : State} (hidle : s.phase = .idle) :
    answers (receiveSeq f) s = List.replicate (f.length + 1) ⟨0x0000#16, false⟩ := by
  have hstart : answer .decStart s = ⟨0x0000#16, false⟩ :=
    answer_of_responses (by rw [issue_of_accepts (accepts_of_phase rfl rfl hidle)]; rfl)
  rw [receiveSeq, answers, hstart, (receiving_decStart hidle).answers_decDatas]
  rfl

/-- DEC_END answers the code of `decode`, and every command before it 0 (43 R156). -/
theorem answers_decodeSeq (f : List Byte) {s : State} (hidle : s.phase = .idle) :
    answers (decodeSeq f) s =
      List.replicate (f.length + 1) ⟨0x0000#16, false⟩ ++ [⟨(decodeFrame s.mode f).code, false⟩] := by
  obtain ⟨u, rfl, hreceiving, hcaptures, hmode, -⟩ := issueAll_decodeSeq f hidle
  have hend : answer .decEnd (issueAll (receiveSeq f) s) = ⟨(decodeFrame s.mode f).code, false⟩ := by
    refine answer_of_responses ?_
    rw [issue_of_accepts (accepts_of_phase rfl rfl hreceiving.phase), ← hmode, ← verdict_code_eq hreceiving hcaptures]
    rfl
  rw [decodeSeq, answers_append, answers_receiveSeq f hidle, answers, answers, hend]

/-! ### The registers -/

/-- A decode has no ERR_CLR and no refusal in it, so it leaves the refusal record as it was (60 R231). -/
theorem issueAll_decodeSeq_record (f : List Byte) {s : State} (hidle : s.phase = .idle) :
    (issueAll (decodeSeq f) s).err = s.err ∧ (issueAll (decodeSeq f) s).errcode = s.errcode := by
  have haccepted : ∀ r ∈ answers (decodeSeq f) s, r.rerr = false := by
    rw [answers_decodeSeq f hidle]
    simp
  exact (issueAll_record haccepted).1 (by simp [decodeSeq, receiveSeq])

theorem exists_ok_of_code_eq_one {r : DecodeResult} (h : r.code = 1#16) : ∃ n q, r = .ok n q := by
  cases r with
  | ok n q => exact ⟨n, q, rfl⟩
  | err e => cases e <;> cases h

/-- Settles O54: the words at the port are the commands issued in order; the decode they close holds the bytes given,
so its verdict is `decode`'s, and on OK so are its block number and its payload. -/
theorem decoderSequenceGivesTheVerdict : Obligations.DecoderSequenceGivesTheVerdict := by
  intro f s rest hidle hport
  obtain ⟨u, -, hreceiving, hcaptures, hmode, hstate⟩ := issueAll_decodeSeq f hidle
  obtain ⟨herr, hcode⟩ := issueAll_decodeSeq_record f hidle
  have hres : (issueAll (decodeSeq f) s).res.code.setWidth 16 = (decodeFrame s.mode f).code := by
    rw [hstate, ← hmode]
    exact verdict_code_eq hreceiving hcaptures
  refine ⟨_, runSteps_commandEvents hport (by simp [decodeSeq, receiveSeq]), rfl, congrArg State.phase hstate,
    (congrArg State.mode hstate).trans hmode, ?_, hres, herr, hcode, fun hok => ?_⟩
  · rw [List.append_assoc, ← answers_decodeSeq f hidle]
    exact issueAll_responses
  · have hone : (decodeFrame s.mode f).code = 1#16 := by
      rw [← hres]
      exact congrArg (fun v : Verdict => v.code.setWidth 16) hok
    obtain ⟨n, q, hdecoded⟩ := exists_ok_of_code_eq_one hone
    obtain ⟨-, hnumber, hpayload⟩ := of_decodeFrame_eq_ok hdecoded
    obtain ⟨-, -, hblk, hheld⟩ := codecDecode_of_ok hidle hdecoded
    exact ⟨hblk.trans hnumber.symm, hheld.trans hpayload.symm,
      hdecoded.trans (congrArg₂ DecodeResult.ok hblk.symm hheld.symm)⟩

end Sys2Proof.Machine
end

section
/-! What a corruption in one place of a valid frame remainder gives (43 R158). -/

namespace Sys2Proof.Machine

/-! ### The CRC tells any two values of one byte apart -/

theorem getLsbD_zero_crcShift (c : Word) : (crcShift c).getLsbD 0 = c.getLsbD 15 := by
  rw [crcShift_eq, BitVec.getLsbD_xor, BitVec.getLsbD_shiftLeft, feedback]
  cases c.getLsbD 15 <;> rfl

/-- The bit shifted out comes back as bit 0 of the polynomial, so no shift step loses anything. -/
theorem crcShift_injective : Function.Injective crcShift := by
  intro c c' h
  have hout : c.getLsbD 15 = c'.getLsbD 15 := by rw [← getLsbD_zero_crcShift, h, getLsbD_zero_crcShift]
  rw [crcShift_eq, crcShift_eq, hout, BitVec.xor_left_inj] at h
  refine BitVec.eq_of_getLsbD_eq fun i hi => ?_
  obtain rfl | hlow : i = 15 ∨ i < 15 := by omega
  · exact hout
  · have hbit := congrArg (·.getLsbD (i + 1)) h
    have hnext : i + 1 < 16 := by omega
    simpa [BitVec.getLsbD_shiftLeft, hnext, hi] using hbit

theorem crcShifts_injective {n : Nat} : Function.Injective (crcShifts n) := by
  induction n with
  | zero => exact fun _ _ h => h
  | succ n ih => exact fun _ _ h => crcShift_injective (ih h)

theorem crcUpdate_left_injective (b : Byte) : Function.Injective (crcUpdate · b) :=
  fun _ _ h => (BitVec.xor_left_inj _).mp (crcShifts_injective h)

theorem crcUpdate_right_injective (c : Word) : Function.Injective (crcUpdate c) := by
  intro b b' h
  have hshifted := (BitVec.xor_right_inj _).mp (crcShifts_injective h)
  refine BitVec.eq_of_getLsbD_eq fun i hi => ?_
  have hbit := congrArg (·.getLsbD (i + 8)) hshifted
  have hplace : i + 8 < 16 := by omega
  have hwide : i < 16 := by omega
  simpa [BitVec.getLsbD_shiftLeft, hi, hplace, hwide] using hbit

theorem foldl_crcUpdate_injective (d : List Byte) : Function.Injective (d.foldl crcUpdate) := by
  induction d with
  | nil => exact fun _ _ h => h
  | cons b d ih => exact fun _ _ h => crcUpdate_left_injective b (ih h)

theorem crc16_replace_inj {x y : List Byte} {a b : Byte} (h : crc16 (x ++ [a] ++ y) = crc16 (x ++ [b] ++ y)) :
    a = b := by
  simp only [crc16, List.foldl_append] at h
  exact crcUpdate_right_injective _ (foldl_crcUpdate_injective y h)

/-! ### The trailer -/

theorem trailer_replace_inj {m : Mode} {x y : List Byte} {a b : Byte}
    (h : trailer m (x ++ [a] ++ y) = trailer m (x ++ [b] ++ y)) : a = b := by
  cases m with
  | checksum => exact checksum8_replace_inj (List.singleton_inj.mp h)
  | crc16 =>
    obtain ⟨hhi, hrest⟩ := List.cons_eq_cons.mp h
    exact crc16_replace_inj ((word_eq_iff _ _).mpr ⟨hhi, List.singleton_inj.mp hrest⟩)

/-- Any other byte in one place of the payload gives another trailer, in both modes (40 R105, 41 R117). -/
theorem trailer_set_ne (m : Mode) {q : List Byte} {j : Nat} {b : Byte} (hj : j < q.length) (hb : b ≠ q.getD j 0) :
    trailer m (q.set j b) ≠ trailer m q := by
  intro h
  have hsplit : ∀ v, q.set j v = q.take j ++ [v] ++ q.drop (j + 1) := fun v => by
    rw [List.set_eq_take_append_cons_drop, if_pos hj, List.append_cons]
  have hsame : q = q.take j ++ [q.getD j 0] ++ q.drop (j + 1) := by
    rw [← hsplit, List.getD_eq_getElem _ _ hj, List.set_getElem_self]
  rw [hsplit] at h
  exact hb (trailer_replace_inj (h.trans (congrArg (trailer m) hsame)))

/-! ### `decode` by the fields of a remainder -/

/-- On a remainder of the right length only the pair and the trailer are checked (43 R150). -/
theorem decodeFrame_fields {m : Mode} (x y : Byte) {q tr : List Byte} (hq : q.length = 128)
    (htr : tr.length = Config.trailerLen m) : decodeFrame m (x :: y :: (q ++ tr)) =
      if x + y ≠ 255#8 then .err .badBlockNumberPair
      else if tr ≠ trailer m q then .err .checksumMismatch
      else .ok x q := by
  have hlength : (x :: y :: (q ++ tr)).length = Config.remLen m := by
    simp [hq, htr, remLen_eq_add_trailerLen]
    omega
  have hpayload : ((x :: y :: (q ++ tr)).drop 2).take Config.payloadLen = q := List.take_left' hq
  have htrailer : (x :: y :: (q ++ tr)).drop 130 = tr := List.drop_left' (l₁ := x :: y :: q) (by simp [hq])
  rw [decodeFrame, if_neg (not_not_intro hlength), hpayload, htrailer]
  rfl

/-- Settles O56: each corruption keeps the fields of the remainder in place and breaks one of the two checks, or
neither. -/
theorem oneByteCorruptionIsDetected : Obligations.OneByteCorruptionIsDetected := by
  intro m n p hp f
  have hq : (padTo128 p).length = 128 := padTo128_length hp
  have htr : (trailer m (padTo128 p)).length = Config.trailerLen m := trailer_length m _
  have hf : f = n :: complement n :: (padTo128 p ++ trailer m (padTo128 p)) := drop_one_encodeFrame m n p
  have hpair : ¬ n + complement n ≠ 255#8 := not_not_intro (add_complement n)
  rw [hf]
  refine ⟨fun k b hk hb => ?_, fun tr hlength hne => ?_, fun k b hlow hhigh hb => ?_, fun n' => ?_⟩
  · obtain rfl | rfl : k = 0 ∨ k = 1 := by omega
    · have hbroken : b + complement n ≠ 255#8 := fun h => hb (add_right_cancel (h.trans (add_complement n).symm))
      exact (decodeFrame_fields b _ hq htr).trans (if_pos hbroken)
    · have hbroken : n + b ≠ 255#8 := fun h => hb (add_left_cancel (h.trans (add_complement n).symm))
      exact (decodeFrame_fields n b hq htr).trans (if_pos hbroken)
  · have hdrop : (n :: complement n :: (padTo128 p ++ trailer m (padTo128 p))).drop 130 = trailer m (padTo128 p) :=
      List.drop_left' (l₁ := n :: complement n :: padTo128 p) (by simp [hq])
    have htake : (n :: complement n :: (padTo128 p ++ trailer m (padTo128 p))).take 130 =
        n :: complement n :: padTo128 p :=
      List.take_left' (l₁ := n :: complement n :: padTo128 p) (by simp [hq])
    rw [hdrop] at hne
    rw [htake]
    exact (decodeFrame_fields n _ hq hlength).trans ((if_neg hpair).trans (if_pos hne))
  · obtain ⟨j, rfl⟩ := Nat.exists_eq_add_of_le' hlow
    have hj : j < (padTo128 p).length := by omega
    rw [List.getD_cons_succ, List.getD_cons_succ, List.getD_append _ _ _ _ hj] at hb
    rw [List.set_cons_succ, List.set_cons_succ, List.set_append_left _ _ hj,
      decodeFrame_fields n _ (by rw [List.length_set, hq]) htr, if_neg hpair]
    exact if_pos (trailer_set_ne m hj hb).symm
  · have hkept : ¬ n' + complement n' ≠ 255#8 := not_not_intro (add_complement n')
    exact (decodeFrame_fields n' (complement n') hq htr).trans ((if_neg hkept).trans (if_neg (not_not_intro rfl)))

end Sys2Proof.Machine
end

section
/-! The control and status commands as single commands (44 R170 to R175). -/

namespace Sys2Proof.Machine

/-! ### NOP, ABORT and ERR_CLR -/

theorem decode_nopWord (arg : Byte) : decode (cmdWord 0x00#8 arg) = decodeN arg .nop := decode_cmdWord _ _

theorem decode_abortWord (arg : Byte) : decode (cmdWord 0x01#8 arg) = decodeN arg .abort := decode_cmdWord _ _

theorem decode_errClrWord (arg : Byte) : decode (cmdWord 0x02#8 arg) = decodeN arg .errClr := decode_cmdWord _ _

/-- Settles O11: NOP is executed in every phase, and its word is of format N. -/
theorem nopChangesNothing : Obligations.NopChangesNothing :=
  ⟨fun s => exec_of_accepts (accepts_of_anyPhase rfl rfl s), decode_nopWord,
   fun arg => refusedAtPort_of_decodeN (decode_nopWord arg)⟩

/-- Settles O12: ABORT is executed in every phase, and its word is of format N. -/
theorem abortReturnsToIdle : Obligations.AbortReturnsToIdle :=
  ⟨fun s => exec_of_accepts (accepts_of_anyPhase rfl rfl s), decode_abortWord,
   fun arg => refusedAtPort_of_decodeN (decode_abortWord arg)⟩

/-- Settles O13: ERR_CLR is executed in every phase, and its word is of format N. -/
theorem errClrClearsTheRecord : Obligations.ErrClrClearsTheRecord :=
  ⟨fun s => exec_of_accepts (accepts_of_anyPhase rfl rfl s), decode_errClrWord,
   fun arg => refusedAtPort_of_decodeN (decode_errClrWord arg)⟩

/-! ### SET_MODE -/

/-- Format M by the value of the argument (30_encoding R76). -/
theorem decodeM_eq (arg : Byte) (mk : Mode → Instr) : decodeM arg mk =
    if arg = 0x00#8 then .instr (mk .checksum) else if arg = 0x01#8 then .instr (mk .crc16) else .badArg := by
  have hlegal : arg.extractLsb' 1 7 = 0#7 ↔ arg = 0x00#8 ∨ arg = 0x01#8 := by revert arg; decide
  split_ifs with hzero hone
  · rw [hzero]
    rfl
  · rw [hone]
    rfl
  · exact if_neg fun h => (hlegal.mp h).elim hzero hone

theorem decode_setModeWord (arg : Byte) : decode (cmdWord 0x03#8 arg) =
    if arg = 0x00#8 then .instr (.setMode .checksum) else if arg = 0x01#8 then .instr (.setMode .crc16)
    else .badArg :=
  (decode_cmdWord _ _).trans (decodeM_eq arg .setMode)

/-- Settles O14: SET_MODE is executed in IDLE and refused elsewhere, and its word is of format M. -/
theorem setModeWritesMode : Obligations.SetModeWritesMode := by
  refine ⟨fun _ _ hidle => exec_of_accepts (accepts_of_phase rfl rfl hidle), fun _ _ => exec_of_wrongPhase rfl,
    decode_setModeWord, fun arg hreserved => refusedAtPort_of_decode_badArg ?_⟩
  have hzero : arg ≠ 0x00#8 := by rintro rfl; simp at hreserved
  have hone : arg ≠ 0x01#8 := by rintro rfl; simp at hreserved
  exact (decode_setModeWord arg).trans ((if_neg hzero).trans (if_neg hone))

/-! ### BUF_RD -/

/-- Format A by the value of the argument (30_encoding R75). -/
theorem decodeA_eq (arg : Byte) (mk : Addr → Instr) :
    decodeA arg mk = if arg.toNat < 128 then .instr (mk (BitVec.ofNat 7 arg.toNat)) else .badArg := by
  have hlegal : arg.extractLsb' 7 1 = 0#1 ↔ arg.toNat < 128 := by revert arg; decide
  exact if_congr hlegal rfl rfl

theorem decode_bufRdWord (arg : Byte) : decode (cmdWord 0x05#8 arg) =
    if arg.toNat < 128 then .instr (.bufRd (BitVec.ofNat 7 arg.toNat)) else .badArg :=
  (decode_cmdWord _ _).trans (decodeA_eq arg .bufRd)

/-- Settles O16: BUF_RD is executed in IDLE and refused elsewhere, its word is of format A, and a listed byte is the one
read. -/
theorem bufRdReturnsTheBufferByte : Obligations.BufRdReturnsTheBufferByte :=
  ⟨fun _ _ hidle => exec_of_accepts (accepts_of_phase rfl rfl hidle), fun _ _ _ => readBuf_of_get?,
   fun _ _ => exec_of_wrongPhase rfl, decode_bufRdWord,
   fun arg hreserved => refusedAtPort_of_decode_badArg ((decode_bufRdWord arg).trans (if_neg hreserved.not_gt))⟩

/-! ### STATUS_RD -/

theorem decode_statusRdWord (arg : Byte) : decode (cmdWord 0x04#8 arg) = decodeN arg .statusRd := decode_cmdWord _ _

theorem flagBit_eq_ite (f : Bool) : flagBit f = if f then 1#1 else 0#1 := by cases f <;> rfl

/-- STATUS as a number, each field by its weight: the fields are too narrow to carry into one another
(10_state R34). -/
theorem statusWord_toNat (s : State) : (statusWord s).toNat =
    s.phase.code.toNat + s.mode.bit.toNat * 2 ^ 2 + (flagBit s.err).toNat * 2 ^ 3
      + (errcodeBits s.errcode).toNat * 2 ^ 4 + (flagBit s.ovf).toNat * 2 ^ 7 + s.res.code.toNat * 2 ^ 8 := by
  simp only [statusWord, BitVec.toNat_add, BitVec.toNat_shiftLeft, BitVec.toNat_setWidth, Nat.shiftLeft_eq]
  omega

/-- A field of STATUS is read back by dividing off what lies below it and dropping what lies above. -/
theorem statusWord_field {s : State} {i n : Nat} {f : BitVec n} (h : (statusWord s).toNat / 2 ^ i % 2 ^ n = f.toNat) :
    (statusWord s).extractLsb' i n = f := by
  rw [← BitVec.toNat_inj, BitVec.extractLsb'_toNat, Nat.shiftRight_eq_div_pow, h]

/-- STATUS holds each register's code in its own bits, and zero above them (10_state R34). -/
theorem statusWord_fields (s : State) :
    (statusWord s).extractLsb' 0 2 = s.phase.code ∧
    (statusWord s).extractLsb' 2 1 = s.mode.bit ∧
    (statusWord s).extractLsb' 3 1 = flagBit s.err ∧
    (statusWord s).extractLsb' 4 3 = errcodeBits s.errcode ∧
    (statusWord s).extractLsb' 7 1 = flagBit s.ovf ∧
    (statusWord s).extractLsb' 8 3 = s.res.code ∧
    (statusWord s).extractLsb' 11 5 = 0#5 := by
  have hword := statusWord_toNat s
  have hzero : (0#5).toNat = 0 := rfl
  refine ⟨?_, ?_, ?_, ?_, ?_, ?_, ?_⟩ <;> refine statusWord_field ?_ <;> omega

/-- Settles O15: STATUS_RD is executed in every phase and answers STATUS, whose fields are the registers' codes; its
word is of format N. -/
theorem statusRdAssemblesStatus : Obligations.StatusRdAssemblesStatus := by
  refine ⟨fun s => ⟨statusWord s, exec_of_accepts (accepts_of_anyPhase rfl rfl s), ?_⟩, decode_statusRdWord,
    fun arg => refusedAtPort_of_decodeN (decode_statusRdWord arg)⟩
  obtain ⟨hphase, hmode, herr, herrcode, hovf, hres, hzero⟩ := statusWord_fields s
  refine ⟨hphase.trans ?_, hmode.trans ?_, herr.trans (flagBit_eq_ite _), herrcode.trans ?_,
    hovf.trans (flagBit_eq_ite _), hres.trans ?_, hzero⟩
  · cases s.phase <;> rfl
  · cases s.mode <;> rfl
  · rcases s.errcode with - | - | - | - | - <;> rfl
  · cases s.res <;> rfl

end Sys2Proof.Machine
end

section
/-! A host's codec, the XMCODEC block it drives, between two frame operations (45 R211): IDLE and the mode selected. The
set-up of a transfer brings it there from any state (70 R263), and each of the host's codec functions leaves it there. -/

namespace Sys2Proof.Machine

/-- The codec has no frame operation open and is in mode `m`: a frame of that mode can be encoded or decoded. -/
structure State.Ready (s : State) (m : Mode) : Prop where
  phase : s.phase = .idle
  mode : s.mode = m

/-! ### The codec functions -/

/-- Commands that write neither PHASE nor MODE leave the codec ready. -/
theorem State.Ready.issueAll {s : State} {m : Mode} (h : s.Ready m) {is : List Instr}
    (hphase : ∀ i ∈ is, .phase ∉ writtenBy i) (hmode : ∀ i ∈ is, .mode ∉ writtenBy i) : (issueAll is s).Ready m :=
  ⟨(issueAll_sameReg (r := .phase) nofun nofun hphase).trans h.phase,
   (issueAll_sameReg (r := .mode) nofun nofun hmode).trans h.mode⟩

theorem State.Ready.codecEncode {s : State} {m : Mode} (h : s.Ready m) (n : Byte) {p : List Byte}
    (hp : p.length ≤ 128) : (codecEncode n p s).1.Ready m := by
  obtain ⟨u, hloads, hstate⟩ := issueAll_encodeSeq n h.phase hp
  rw [Machine.codecEncode, hstate]
  exact ⟨rfl, hloads.mode.trans h.mode⟩

theorem State.Ready.codecDecode {s : State} {m : Mode} (h : s.Ready m) (f : List Byte) :
    (codecDecode f s).1.Ready m := by
  obtain ⟨u, -, -, -, hmode, hstate⟩ := issueAll_decodeSeq f h.phase
  rw [Machine.codecDecode, hstate]
  exact ⟨rfl, hmode.trans h.mode⟩

theorem State.Ready.codecBlock {s : State} {m : Mode} (h : s.Ready m) : (codecBlock s).1.Ready m :=
  ⟨h.phase, h.mode⟩

theorem State.Ready.codecPayload {s : State} {m : Mode} (h : s.Ready m) : (codecPayload s).1.Ready m := by
  have hwrites : ∀ r : Reg, ∀ i ∈ payloadSeq, r ∉ writtenBy i := fun r => by simp [payloadSeq, writtenBy]
  simp only [Machine.codecPayload]
  exact h.issueAll (hwrites .phase) (hwrites .mode)

/-! ### The set-up of a transfer (70 R263) -/

theorem ready_setMode {s : State} (hidle : s.phase = .idle) (m : Mode) : (issue (.setMode m) s).Ready m := by
  rw [issue_of_accepts (accepts_of_phase rfl rfl hidle)]
  exact ⟨hidle, rfl⟩

theorem issue_setMode_phase (m : Mode) (s : State) : (issue (.setMode m) s).phase = s.phase :=
  issue_sameReg (r := .phase) (.setMode m) s (by simp [writtenBy]) nofun nofun

/-- The check finds IDLE and the mode selected, or a frame operation in which SET_MODE was refused; it abandons that and
selects the mode again (log entry 30). -/
theorem ready_codecCheck (m : Mode) (s : State) : (codecCheck m (issue (.setMode m) s)).Ready m := by
  rw [codecCheck, issue_statusRd, lastAnswer_statusRd]
  by_cases hshown : statusShowsIdle (statusWord (issue (.setMode m) s)) = true
  · have hidle : s.phase = .idle := (issue_setMode_phase m s).symm.trans ((statusShowsIdle_iff _).mp hshown)
    rw [if_pos hshown]
    exact ⟨(ready_setMode hidle m).phase, (ready_setMode hidle m).mode⟩
  · rw [if_neg hshown]
    exact ready_setMode (s := issue .abort _) rfl m

theorem ready_setUp (boot : Boot) (m : Mode) (s : State) : (boot.setUp m s).Ready m := by
  match boot with
  | .reset => exact ready_setMode (resetBlock_phase s) m
  | .check false => exact ready_codecCheck m _
  | .check true => exact ⟨(ready_codecCheck m s).phase, (ready_codecCheck m s).mode⟩

/-- A host that resets its codec or issues ERR_CLR has a clean refusal record (70 R263, 44 R172). -/
theorem setUp_record {boot : Boot} (hboot : boot = .reset ∨ boot = .check true) (m : Mode) (s : State) :
    (boot.setUp m s).err = false ∧ (boot.setUp m s).errcode = none := by
  obtain rfl | rfl := hboot
  · rw [Boot.setUp, issue_of_accepts (accepts_of_phase rfl rfl rfl)]
    exact ⟨rfl, rfl⟩
  · exact ⟨rfl, rfl⟩

end Sys2Proof.Machine
end

section
/-! The sender (45 R195 to R198, R208): what it does with a read in each phase, and a whole budget of reads that bring no
answer it waits for. -/

namespace Sys2Proof.Machine

/-! ### One read -/

theorem Sender.react_byte {s : Sender} (hrunning : ∀ o, s.phase ≠ .finished o) (b : Byte) :
    s.react (.got [b]) = s.onByte b := by
  unfold Sender.react
  split
  · next o hphase => exact absurd hphase (hrunning o)
  · rfl

theorem Sender.react_empty {s : Sender} (hrunning : ∀ o, s.phase ≠ .finished o) : s.react (.got []) = s.onTimeout := by
  unfold Sender.react
  split
  · next o hphase => exact absurd hphase (hrunning o)
  · rfl

/-- A reaction that writes nothing is the whole step, whatever a write would return. -/
theorem Sender.step_of_silent {s s' : Sender} {r : ReadResult} (h : s.react r = (s', [])) (w : WriteResult) :
    s.step r w = (s', []) := by
  rw [Sender.step, h, Sender.settle_nil]

/-- A read that brings no start byte: nothing, or a byte that is not NAK, C or CAN (45 R196, R208). -/
def ReadResult.NoStart (r : ReadResult) : Prop :=
  r = .got [] ∨ ∃ b, r = .got [b] ∧ b ≠ 0x15#8 ∧ b ≠ 0x43#8 ∧ b ≠ 0x18#8

/-- A turn that brings no answer to a block or to EOT: the read gives nothing, or a byte that is not ACK or CAN, and the
write succeeds (45 R197, R198, R208). -/
def Turn.NoAck (t : Turn) : Prop :=
  t.write = .all ∧ (t.read = .got [] ∨ ∃ b, t.read = .got [b] ∧ b ≠ 0x06#8 ∧ b ≠ 0x18#8)

theorem Sender.react_of_noStart {s : Sender} {r : ReadResult} (hphase : s.phase = .awaitStart) (h : r.NoStart) :
    s.react r = s.startMiss := by
  have hrunning : ∀ o, s.phase ≠ .finished o := by simp [hphase]
  obtain rfl | ⟨b, rfl, hnak, hreq, hcan⟩ := h
  · simp [Sender.react_empty hrunning, Sender.onTimeout, hphase]
  · simp [Sender.react_byte hrunning, Sender.onByte, hphase, announcedMode, Config.nak, Config.crcReq, Config.can, hnak,
      hreq, hcan]

/-- A turn without an answer does what an empty read does, when every byte but ACK and CAN does that too. -/
theorem Sender.step_of_noAck {s : Sender} {t : Turn} {x : Sender × List Byte} (hrunning : ∀ o, s.phase ≠ .finished o)
    (ht : t.NoAck) (hempty : s.onTimeout = x) (hother : ∀ b, b ≠ Config.ack → b ≠ Config.can → s.onByte b = x) :
    s.step t.read t.write = x := by
  obtain ⟨hwrite, hread | ⟨b, hread, hack, hcan⟩⟩ := ht <;> rw [hwrite, Sender.step_all, hread]
  · exact (Sender.react_empty hrunning).trans hempty
  · exact (Sender.react_byte hrunning b).trans (hother b hack hcan)

theorem Sender.step_block_of_noAck {s : Sender} {n : Byte} {t : Turn} (hphase : s.phase = .sendingBlock n)
    (ht : t.NoAck) : s.step t.read t.write = s.blockMiss n :=
  Sender.step_of_noAck (by simp [hphase]) ht (by simp [Sender.onTimeout, hphase])
    fun b hack hcan => by simp [Sender.onByte, hphase, hack, hcan]

theorem Sender.step_eot_of_noAck {s : Sender} {t : Turn} (hphase : s.phase = .awaitEot) (ht : t.NoAck) :
    s.step t.read t.write = s.eotMiss :=
  Sender.step_of_noAck (by simp [hphase]) ht (by simp [Sender.onTimeout, hphase])
    fun b hack hcan => by simp [Sender.onByte, hphase, hack, hcan]

/-- The frame a sender writes is `encode`'s (42 R137), and its codec is then ready for the next one. -/
theorem Sender.sendFrame_eq {s : Sender} {m : Mode} (hready : s.codec.Ready m) (hlength : s.inFlight.length ≤ 128)
    (n : Byte) : ∃ c : State, c.Ready m ∧
      s.sendFrame n = ({ s with phase := .sendingBlock n, codec := c }, encodeFrame m n s.inFlight) := by
  refine ⟨_, hready.codecEncode n hlength, ?_⟩
  rw [Sender.sendFrame, codecEncode_bytes n hready.phase hlength, hready.mode]

/-! ### A whole budget (45 R194) -/

section Budget

variable {budget : Nat} {waits : Sender → Prop} {fails : Turn → Prop} {o : TransferOutcome} {again last : List Byte}

/-- A sender that with every failing turn writes `again` and waits on while attempts are left, or else writes `last` and
ends, does so over a whole budget of failing turns. -/
theorem Sender.run_of_budget_used
    (hagain : ∀ s t, waits s → fails t → s.attempts + 1 < budget →
      ∃ s', s.step t.read t.write = (s', again) ∧ waits s' ∧ s'.attempts = s.attempts + 1)
    (hlast : ∀ s t, waits s → fails t → ¬ s.attempts + 1 < budget →
      ∃ s', s.step t.read t.write = (s', last) ∧ s'.phase = .finished o) {k : Nat} :
    ∀ {ts : List Turn} {s : Sender}, waits s → (∀ t ∈ ts, fails t) → ts.length = k + 1 →
      s.attempts + (k + 1) = budget →
      (s.run ts).1.phase = .finished o ∧ (s.run ts).2 = (List.replicate k again).flatten ++ last := by
  induction k with
  | zero =>
    intro ts s hs hts hlength hbudget
    obtain ⟨t, rfl⟩ := List.length_eq_one_iff.mp hlength
    obtain ⟨s', hstep, hphase⟩ := hlast s t hs (hts t List.mem_cons_self) hbudget.not_lt
    simp [Sender.run, hstep, hphase]
  | succ k ih =>
    intro ts s hs hts hlength hbudget
    obtain ⟨t, ts, rfl⟩ := List.exists_cons_of_length_eq_add_one hlength
    obtain ⟨ht, hts⟩ := List.forall_mem_cons.mp hts
    obtain ⟨s', hstep, hs', hattempts⟩ := hagain s t hs ht (by omega)
    obtain ⟨hphase, hwritten⟩ := ih hs' hts (Nat.succ.inj hlength) (by omega)
    simp [Sender.run, hstep, hphase, hwritten, List.replicate_succ]

end Budget

/-- Six reads without a start byte: nothing is written, CAN neither (45 R196). -/
theorem Sender.run_noStart {ts : List Turn} {s : Sender} (hlength : ts.length = 6) (hphase : s.phase = .awaitStart)
    (hattempts : s.attempts = 0) (hreads : ∀ t ∈ ts, t.read.NoStart) :
    (s.run ts).1.phase = .finished (.aborted .noStartSignal) ∧ (s.run ts).2 = [] :=
  Sender.run_of_budget_used (budget := Config.startRetries) (waits := fun s => s.phase = .awaitStart)
    (fails := fun t => t.read.NoStart) (k := 5) (again := []) (last := [])
    (fun _ t hs ht hleft =>
      ⟨_, Sender.step_of_silent ((Sender.react_of_noStart hs ht).trans (if_pos hleft)) t.write, hs, rfl⟩)
    (fun _ t hs ht hleft =>
      ⟨_, Sender.step_of_silent ((Sender.react_of_noStart hs ht).trans (if_neg hleft)) t.write, rfl⟩)
    hphase hreads hlength (congrArg (· + 6) hattempts)

/-- Ten responses that are no ACK end EOT without CAN (45 R198). -/
theorem Sender.run_eot_noAck {ts : List Turn} {s : Sender} (hlength : ts.length = 10) (hphase : s.phase = .awaitEot)
    (hattempts : s.attempts = 0) (hturns : ∀ t ∈ ts, t.NoAck) :
    (s.run ts).1.phase = .finished (.aborted .eotNotAcknowledged) ∧
      (s.run ts).2 = List.replicate 9 Config.eot :=
  Sender.run_of_budget_used (budget := Config.blockRetries) (waits := fun s => s.phase = .awaitEot)
    (again := [Config.eot]) (last := [])
    (fun _ _ hs ht hleft => ⟨_, (Sender.step_eot_of_noAck hs ht).trans (if_pos hleft), hs, rfl⟩)
    (fun _ _ hs ht hleft => ⟨_, (Sender.step_eot_of_noAck hs ht).trans (if_neg hleft), rfl⟩)
    hphase hturns hlength (congrArg (· + 10) hattempts)

/-- The sender waits for the answer to block `n`, whose source bytes `p` it still has, and its codec is ready to
encode it again. -/
structure Sender.AwaitsBlock (s : Sender) (m : Mode) (n : Byte) (p : List Byte) : Prop where
  phase : s.phase = .sendingBlock n
  inFlight : s.inFlight = p
  ready : s.codec.Ready m

/-- Ten responses that are no ACK: the same frame after each but the last, and then CAN (45 R197). -/
theorem Sender.run_block_noAck {ts : List Turn} {s : Sender} {m : Mode} {n : Byte} {p : List Byte}
    (hlength : ts.length = 10) (hs : s.AwaitsBlock m n p) (hp : p.length ≤ 128) (hattempts : s.attempts = 0)
    (hturns : ∀ t ∈ ts, t.NoAck) :
    (s.run ts).1.phase = .finished (.aborted .retryBudgetExhausted) ∧
      (s.run ts).2 = (List.replicate 9 (encodeFrame m n p)).flatten ++ [Config.can] := by
  refine Sender.run_of_budget_used (budget := Config.blockRetries) (waits := fun s => s.AwaitsBlock m n p)
    (fails := Turn.NoAck) (fun s t hs ht hleft => ?_) (fun s t hs ht hleft => ?_) hs hturns hlength
    (congrArg (· + 10) hattempts)
  · obtain ⟨hphase, rfl, hready⟩ := hs
    obtain ⟨c, hc, hsend⟩ := Sender.sendFrame_eq (s := { s with attempts := s.attempts + 1 }) hready hp n
    have hmiss : s.blockMiss n = Sender.sendFrame n { s with attempts := s.attempts + 1 } := if_pos hleft
    exact ⟨_, (Sender.step_block_of_noAck hphase ht).trans (hmiss.trans hsend), ⟨rfl, rfl, hc⟩, rfl⟩
  · exact ⟨_, (Sender.step_block_of_noAck hs.phase ht).trans (if_neg hleft), rfl⟩

/-- Settles O58: in each of the three phases the budget is used by reads without an answer. -/
theorem senderRetriesAreBounded : Obligations.SenderRetriesAreBounded := by
  refine ⟨fun ts boot file codec hlength hreads => Sender.run_noStart hlength rfl rfl hreads,
    fun ts s n hlength hphase hattempts hp hidle hwrites hreads => ?_,
    fun ts s hlength hphase hattempts _ hwrites hreads => ?_⟩
  · exact Sender.run_block_noAck hlength ⟨hphase, rfl, hidle, rfl⟩ hp hattempts fun t ht => ⟨hwrites t ht, hreads t ht⟩
  · exact Sender.run_eot_noAck hlength hphase hattempts fun t ht => ⟨hwrites t ht, hreads t ht⟩

end Sys2Proof.Machine
end

section
/-! The receiver (45 R201 to R208): what it does with a control byte and with a frame remainder. -/

namespace Sys2Proof.Machine

/-! ### One read -/

theorem Receiver.react_byte {s : Receiver} (hwaits : s.phase = .negotiating ∨ s.phase = .scanning) (b : Byte) :
    s.react (.got [b]) = s.onByte b := by
  obtain hphase | hphase := hwaits <;> simp [Receiver.react, hphase, controlRead]

theorem Receiver.react_frame {s : Receiver} (hphase : s.phase = .readingFrame) (f : List Byte) :
    s.react (.got f) = s.onFrame f := by
  simp [Receiver.react, hphase]

/-- A rejected frame uses an attempt: the scan goes on, or the connection is lost (45 R203, R206). -/
theorem Receiver.reject_phase (s : Receiver) :
    s.reject.1.phase = .scanning ∨ s.reject.1.phase = .finished (.aborted .connectionLost) := by
  rw [Receiver.reject, Receiver.consume]
  split
  · exact .inl rfl
  · exact .inr rfl

/-- A frame remainder is followed by the scan for the next one, or by the end that an exhausted budget brings (45 R203 to
R206). -/
theorem Receiver.onFrame_phase (f : List Byte) (s : Receiver) :
    (s.onFrame f).1.phase = .scanning ∨ (s.onFrame f).1.phase = .finished (.aborted .connectionLost) := by
  unfold Receiver.onFrame Receiver.onBlock
  split
  · split
    · exact .inl rfl
    · exact Receiver.reject_phase _
  · exact Receiver.reject_phase _

/-- Settles O57: CAN is looked at before anything else where a control byte is read, and a frame remainder ends in no
peer abort. -/
theorem canAbortsATransferAtOnce : Obligations.CanAbortsATransferAtOnce := by
  refine ⟨fun s w hrunning => ?_, fun s w hwaits => ?_, fun s f w hphase => ?_⟩
  · exact Sender.step_of_silent ((Sender.react_byte hrunning 0x18#8).trans (if_pos rfl)) w
  · have hcan : s.react (.got [0x18#8]) = (s.finish (.aborted .peerAbort), []) :=
      (Receiver.react_byte hwaits 0x18#8).trans (if_pos rfl)
    rw [Receiver.step, hcan, Receiver.settle_nil]
    rfl
  · rw [Receiver.step, Receiver.react_frame hphase]
    cases hwrite : writeFailed w (s.onFrame f).2 with
    | true => simp [Receiver.settle_failed hwrite, Receiver.finish]
    | false => obtain hnext | hnext := Receiver.onFrame_phase f s <;> simp [Receiver.settle, hwrite, hnext]

/-! ### A frame remainder (45 R202 to R205) -/

/-- The block number that the host reads back is BLK, and the payload is PBUF (45 R211). -/
theorem codecBlock_codecPayload {s : State} (hidle : s.phase = .idle) :
    (codecBlock s).2 = s.blk ∧ (codecPayload (codecBlock s).1).2 = s.payload 128 := by
  have hreadout := codecReadout_block hidle
  rwa [codecReadout, Prod.mk.injEq] at hreadout

/-- The expected block is kept and acknowledged (45 R205). -/
theorem Receiver.onFrame_of_expected {s : Receiver} {m : Mode} {f q : List Byte} (hready : s.codec.Ready m)
    (hdecoded : decodeFrame m f = .ok s.expected q) : ∃ c : State, c.Ready m ∧
      s.onFrame f = Receiver.keep q { s with codec := c } := by
  obtain rfl : s.codec.mode = m := hready.mode
  obtain ⟨hidle, -, hblk, hpayload⟩ := codecDecode_of_ok hready.phase hdecoded
  have hcode : (codecDecode f s.codec).2 = 0x0001#16 := by
    rw [codecDecode_rdata f hready.phase, hdecoded, DecodeResult.code]
  obtain ⟨hnumber, hbytes⟩ := codecBlock_codecPayload hidle
  refine ⟨_, (hready.codecDecode f).codecBlock.codecPayload, ?_⟩
  rw [Receiver.onFrame, if_pos hcode, Receiver.onBlock, if_pos (hnumber.trans hblk), hbytes, hpayload]

/-- Anything else is rejected (45 R203, R204). -/
theorem Receiver.onFrame_of_unexpected {s : Receiver} {m : Mode} {f : List Byte} (hready : s.codec.Ready m)
    (hother : ∀ q, decodeFrame m f ≠ .ok s.expected q) :
    ∃ c : State, s.onFrame f = Receiver.reject { s with codec := c } := by
  obtain rfl : s.codec.mode = m := hready.mode
  by_cases hcode : (codecDecode f s.codec).2 = 0x0001#16
  · obtain ⟨n, q, hdecoded⟩ := exists_ok_of_code_eq_one ((codecDecode_rdata f hready.phase).symm.trans hcode)
    obtain ⟨hidle, -, hblk, -⟩ := codecDecode_of_ok hready.phase hdecoded
    have hnumber : (codecBlock (codecDecode f s.codec).1).2 ≠ s.expected := by
      rw [(codecBlock_codecPayload hidle).1, hblk]
      rintro rfl
      exact hother q hdecoded
    exact ⟨_, (if_pos hcode).trans (if_neg hnumber)⟩
  · exact ⟨_, if_neg hcode⟩

theorem Receiver.reject_of_attempts_left {s : Receiver} (hleft : s.attempts + 1 < Config.blockRetries) :
    s.reject = ({ s with phase := .scanning, attempts := s.attempts + 1 }, [Config.nak]) := by
  rw [Receiver.reject, Receiver.consume, if_pos hleft]

/-- Settles O59: the expected block is kept, anything else is rejected, and a failed write ends the transfer whichever it
is. -/
theorem receiverAppendsOnlyTheExpectedBlock : Obligations.ReceiverAppendsOnlyTheExpectedBlock := by
  intro s f hphase hidle hmode
  have hready : s.codec.Ready s.mode := ⟨hidle, hmode⟩
  refine ⟨fun q hdecoded => ?_, fun hleft hother => ?_, fun w hw => ?_⟩
  · obtain ⟨c, -, hkept⟩ := Receiver.onFrame_of_expected hready hdecoded
    rw [Receiver.step_all, Receiver.react_frame hphase, hkept]
    exact ⟨rfl, rfl, rfl, rfl, rfl⟩
  · obtain ⟨c, hrejected⟩ := Receiver.onFrame_of_unexpected hready hother
    rw [Receiver.step_all, Receiver.react_frame hphase, hrejected,
      Receiver.reject_of_attempts_left (s := { s with codec := c }) hleft]
    exact ⟨rfl, rfl, rfl, rfl, rfl⟩
  · have hwritten := Receiver.onFrame_writes f s
    have hfailed : writeFailed w (s.onFrame f).2 = true := by
      obtain rfl | ⟨k, rfl⟩ := hw
      · exact writeFailed_part (List.length_pos_iff.mpr hwritten)
      · exact writeFailed_ioError hwritten k
    rw [Receiver.step, Receiver.react_frame hphase, Receiver.settle_failed hfailed]
    exact ⟨rfl, rfl, rfl⟩

end Sys2Proof.Machine
end

section
/-! The lossless link (45 R212): block after block is sent, decoded and acknowledged, and EOT ends both sides. -/

namespace Sys2Proof.Machine

/-! ### The pad bytes at the end (45 R207) -/

theorem stripPad_append_pads (d : List Byte) (k : Nat) : stripPad (d ++ List.replicate k Config.pad) = stripPad d := by
  have hpads : ∀ b ∈ List.replicate k Config.pad, decide (b = Config.pad) = true := fun b hb =>
    decide_eq_true (List.eq_of_mem_replicate hb)
  rw [stripPad, List.reverse_append, List.reverse_replicate, List.dropWhile_append_of_pos hpads, stripPad]

/-- Only the last block of a file is padded, so the stream assembled from its blocks differs in end pads only. -/
theorem stripPad_padTo128_append (d r : List Byte) :
    stripPad (d ++ padTo128 (r.take Config.payloadLen) ++ r.drop Config.payloadLen) = stripPad (d ++ r) := by
  by_cases hlast : r.length ≤ Config.payloadLen
  · rw [List.take_of_length_le hlast, List.drop_eq_nil_of_le hlast, List.append_nil, padTo128, ← List.append_assoc,
      stripPad_append_pads]
  · have hfull : padTo128 (r.take Config.payloadLen) = r.take Config.payloadLen := by
      rw [padTo128, List.length_take_of_le (Nat.le_of_not_le hlast), Nat.sub_self, List.replicate_zero, List.append_nil]
    rw [hfull, List.append_assoc, List.take_append_drop]

/-! ### The sender's side -/

/-- The next block is read from the source and its frame written (45 R197). -/
theorem Sender.advance_block {s : Sender} {m : Mode} (hready : s.codec.Ready m) (hunread : s.unread ≠ []) (n : Byte) :
    ∃ s', s.advance n = (s', encodeFrame m n (s.unread.take Config.payloadLen)) ∧
      s'.AwaitsBlock m n (s.unread.take Config.payloadLen) ∧ s'.unread = s.unread.drop Config.payloadLen := by
  obtain ⟨c, hc, hsend⟩ := Sender.sendFrame_eq (n := n) (s := { s with
    attempts := 0, inFlight := s.unread.take Config.payloadLen, unread := s.unread.drop Config.payloadLen }) hready
    (List.length_take_le _ _)
  refine ⟨_, Eq.trans ?_ hsend, ⟨rfl, rfl, hc⟩, rfl⟩
  obtain ⟨b, bs, hcons⟩ := List.exists_cons_of_ne_nil hunread
  simp only [Sender.advance, hcons]

theorem Sender.react_announcement {s : Sender} (hphase : s.phase = .awaitStart) (m : Mode) :
    s.react (.got [announcement m]) = s.begin m := by
  rw [Sender.react_byte (by simp [hphase])]
  cases m <;> simp [Sender.onByte, hphase, announcement, announcedMode, Config.nak, Config.crcReq, Config.can]

theorem Sender.react_block_ack {s : Sender} {n : Byte} (hphase : s.phase = .sendingBlock n) :
    s.react (.got [Config.ack]) = s.advance (n + 1) := by
  rw [Sender.react_byte (by simp [hphase])]
  simp [Sender.onByte, hphase, Config.ack, Config.can]

theorem Sender.react_eot_ack {s : Sender} (hphase : s.phase = .awaitEot) :
    s.react (.got [Config.ack]) = (s.finish .completed, []) := by
  rw [Sender.react_byte (by simp [hphase])]
  simp [Sender.onByte, hphase, Config.ack, Config.can]

/-! ### The receiver's side -/

/-- The receiver has assembled `d`, the next block it keeps is block `n`, and its codec is ready to decode it. -/
structure Receiver.Expects (s : Receiver) (m : Mode) (n : Byte) (d : List Byte) : Prop where
  mode : s.mode = m
  expected : s.expected = n
  assembled : s.assembled = d
  ready : s.codec.Ready m

/-- The receiver reads control bytes and takes SOH for the first byte of block `n`: the first block while it negotiates
(45 R201), any block while it scans (45 R206). -/
def Receiver.AwaitsSoh (s : Receiver) (n : Byte) : Prop :=
  (s.phase = .negotiating ∧ n = Config.blockFirst) ∨ s.phase = .scanning

theorem Receiver.AwaitsSoh.wants {s : Receiver} {n : Byte} (h : s.AwaitsSoh n) : s.wants = some (readUpTo 1) := by
  obtain ⟨hphase, -⟩ | hphase := h <;> simp [Receiver.wants, hphase]

theorem Receiver.Expects.react_soh {s : Receiver} {m : Mode} {n : Byte} {d : List Byte} (h : s.Expects m n d)
    (hwaits : s.AwaitsSoh n) :
    ∃ s', s.react (.got [Config.soh]) = (s', []) ∧ s'.phase = .readingFrame ∧ s'.Expects m n d := by
  obtain ⟨hphase, rfl⟩ | hphase := hwaits
  · exact ⟨{ s with phase := .readingFrame, attempts := 0, expected := Config.blockFirst },
      by rw [Receiver.react_byte (.inl hphase)]; simp [Receiver.onByte, hphase, Config.soh, Config.can],
      rfl, h.mode, rfl, h.assembled, h.ready⟩
  · exact ⟨{ s with phase := .readingFrame },
      by rw [Receiver.react_byte (.inr hphase)]; simp [Receiver.onByte, hphase, Config.soh, Config.can],
      rfl, h.mode, h.expected, h.assembled, h.ready⟩

/-- The rest of the frame of the expected block is decoded and acknowledged (45 R205). -/
theorem Receiver.Expects.react_frame {s : Receiver} {m : Mode} {n : Byte} {d p : List Byte} (h : s.Expects m n d)
    (hphase : s.phase = .readingFrame) (hp : p.length ≤ 128) :
    ∃ s', s.react (.got ((encodeFrame m n p).drop 1)) = (s', [Config.ack]) ∧ s'.phase = .scanning ∧
      s'.Expects m (n + 1) (d ++ padTo128 p) := by
  obtain ⟨hmode, rfl, rfl, hready⟩ := h
  obtain ⟨c, hc, hkept⟩ := Receiver.onFrame_of_expected hready (decodeFrame_encodeFrame m s.expected hp)
  exact ⟨_, (Receiver.react_frame hphase _).trans hkept, rfl, hmode, rfl, rfl, hc⟩

theorem Receiver.react_eot {s : Receiver} (hphase : s.phase = .scanning) :
    s.react (.got [Config.eot]) = s.complete := by
  rw [Receiver.react_byte (.inr hphase)]
  simp [Receiver.onByte, hphase, Config.eot, Config.soh, Config.can]

/-! ### One step of the link -/

theorem Link.step_of_response {l : Link} {b : Byte} {s : Sender} {out : List Byte} (hsender : l.toSender = [b])
    (hreact : l.sender.react (.got [b]) = (s, out)) :
    l.step = { l with sender := s, toReceiver := l.toReceiver ++ out, toSender := [] } := by
  simp [Link.step, Link.stepWith, Link.senderTurn, hsender, Sender.step_all, hreact]

theorem Link.step_of_arrival {l : Link} {k : Nat} {f g out : List Byte} {s : Receiver} (hsender : l.toSender = [])
    (harrived : l.toReceiver = f ++ g) (hlength : f.length = k) (hk : 0 < k)
    (hwants : l.receiver.wants = some (readUpTo k)) (hreact : l.receiver.react (.got f) = (s, out)) :
    l.step = { l with receiver := s, toReceiver := g, toSender := out } := by
  subst hlength
  have hsome : f ++ g ≠ [] := List.append_ne_nil_of_left_ne_nil (List.ne_nil_of_length_pos hk) g
  simp [Link.step, Link.stepWith, Link.receiverTurn, hsender, harrived, hsome, hwants, readUpTo, Receiver.step_all,
    hreact]

/-! ### One block -/

/-- The frame of block `n` with the source bytes `p` is under way; `d` is assembled and `r` still to be read. -/
structure Link.BlockSent (l : Link) (m : Mode) (n : Byte) (p d r : List Byte) : Prop where
  sender : l.sender.AwaitsBlock m n p
  unread : l.sender.unread = r
  receiver : l.receiver.Expects m n d
  waits : l.receiver.AwaitsSoh n
  toReceiver : l.toReceiver = encodeFrame m n p
  toSender : l.toSender = []

/-- The ACK of block `n` with the source bytes `p` is under way; `d` is assembled and `r` still to be read. -/
structure Link.BlockAcked (l : Link) (m : Mode) (n : Byte) (p d r : List Byte) : Prop where
  sender : l.sender.AwaitsBlock m n p
  unread : l.sender.unread = r
  receiver : l.receiver.Expects m (n + 1) d
  scans : l.receiver.phase = .scanning
  toReceiver : l.toReceiver = []
  toSender : l.toSender = [Config.ack]

/-- The receiver reads the SOH, then the rest of the frame. -/
theorem Link.BlockSent.acked {l : Link} {m : Mode} {n : Byte} {p d r : List Byte} (h : l.BlockSent m n p d r)
    (hp : p.length ≤ 128) : l.step.step.BlockAcked m n p (d ++ padTo128 p) r := by
  have hlength : ((encodeFrame m n p).drop 1).length = Config.remLen m :=
    (of_decodeFrame_eq_ok (decodeFrame_encodeFrame m n hp)).1
  obtain ⟨s, hsoh, hreading, hs⟩ := h.receiver.react_soh h.waits
  obtain ⟨s', hframe, hscans, hs'⟩ := hs.react_frame hreading hp
  have hwants : s.wants = some (readUpTo (Config.remLen m)) := by simp [Receiver.wants, hreading, hs.mode]
  have hfirst : l.step = { l with receiver := s, toReceiver := (encodeFrame m n p).drop 1, toSender := [] } :=
    Link.step_of_arrival (f := [Config.soh]) h.toSender h.toReceiver rfl Nat.one_pos h.waits.wants hsoh
  have hsecond : l.step.step = { l with receiver := s', toReceiver := [], toSender := [Config.ack] } := by
    rw [hfirst]
    exact Link.step_of_arrival rfl (List.append_nil _).symm hlength ((le_remLen m).trans_lt' (by decide)) hwants hframe
  rw [hsecond]
  exact ⟨h.sender, h.unread, hs', hscans, rfl, rfl⟩

/-- The sender reads the ACK and sends the next block. -/
theorem Link.BlockAcked.sent {l : Link} {m : Mode} {n : Byte} {p d r : List Byte} (h : l.BlockAcked m n p d r)
    (hr : r ≠ []) : l.step.BlockSent m (n + 1) (r.take Config.payloadLen) d (r.drop Config.payloadLen) := by
  obtain ⟨hsender, rfl, hreceiver, hscans, hnone, hack⟩ := h
  obtain ⟨s, hadvance, hs, hunread⟩ := Sender.advance_block hsender.ready hr (n + 1)
  rw [Link.step_of_response hack ((Sender.react_block_ack hsender.phase).trans hadvance), hnone, List.nil_append]
  exact ⟨hs, hunread, hreceiver, .inr hscans, rfl, rfl⟩

/-- The sender reads the announcement, sets its codec up and sends the first block (45 R196). -/
theorem Link.start_sent (boot : Boot) (m : Mode) {file : List Byte} (a b : State) (hfile : file ≠ []) :
    (Link.start boot m file a b).step.BlockSent m Config.blockFirst (file.take Config.payloadLen) []
      (file.drop Config.payloadLen) := by
  obtain ⟨s, hadvance, hs, hunread⟩ :=
    Sender.advance_block (s := { Sender.start boot file a with codec := boot.setUp m a }) (ready_setUp boot m a) hfile
      Config.blockFirst
  have hbegin : (Link.start boot m file a b).sender.react (.got [announcement m]) = (s, _) :=
    (Sender.react_announcement rfl m).trans hadvance
  rw [Link.step_of_response rfl hbegin]
  exact ⟨hs, hunread, ⟨rfl, rfl, rfl, ready_setUp boot m b⟩, .inl ⟨rfl, rfl⟩, rfl, rfl⟩

/-! ### The whole transfer -/

/-- After finitely many steps both sides have ended Completed, and the sink holds `d` without its end pads. -/
def Link.Delivers (l : Link) (d : List Byte) : Prop :=
  ∃ k : Nat, (l.run k).sender.phase = .finished .completed ∧ (l.run k).receiver.phase = .finished .completed ∧
    (l.run k).receiver.sink = stripPad d

theorem Link.delivers_of_step {l : Link} {d : List Byte} (h : l.step.Delivers d) : l.Delivers d := by
  obtain ⟨k, hk⟩ := h
  exact ⟨k + 1, hk⟩

/-- With the source exhausted the sender sends EOT, and EOT is acknowledged (45 R198, R206). -/
theorem Link.BlockAcked.completes {l : Link} {m : Mode} {n : Byte} {p d : List Byte} (h : l.BlockAcked m n p d []) :
    l.Delivers d := by
  obtain ⟨hsender, hunread, hreceiver, hscans, hnone, hack⟩ := h
  have hadvance : l.sender.advance (n + 1) =
      ({ l.sender with phase := .awaitEot, attempts := 0, inFlight := [] }, [Config.eot]) := by
    simp [Sender.advance, hunread]
  have hwants : l.receiver.wants = some (readUpTo 1) := by simp [Receiver.wants, hscans]
  have hsent : l.step = { l with
      sender := { l.sender with phase := .awaitEot, attempts := 0, inFlight := [] }
      toReceiver := [Config.eot], toSender := [] } := by
    rw [Link.step_of_response hack ((Sender.react_block_ack hsender.phase).trans hadvance), hnone, List.nil_append]
  have hreceived : l.step.step = { l.step with
      receiver := l.receiver.complete.1, toReceiver := [], toSender := [Config.ack] } := by
    rw [hsent]
    exact Link.step_of_arrival (f := [Config.eot]) rfl rfl rfl Nat.one_pos hwants (Receiver.react_eot hscans)
  have hended : l.step.step.step = { l.step.step with sender := l.step.sender.finish .completed, toSender := [] } := by
    rw [hreceived, hsent]
    exact Link.step_of_response rfl (Sender.react_eot_ack rfl)
  refine ⟨3, ?_⟩
  rw [Link.run, Link.run, Link.run, Link.run, hended, hreceived]
  exact ⟨rfl, rfl, congrArg stripPad hreceiver.assembled⟩

/-- The block under way and what is still to be read are delivered after what is assembled, by induction on their
length: only the last block is followed by EOT. -/
theorem Link.BlockSent.delivers {l : Link} {m : Mode} {n : Byte} {d r : List Byte}
    (h : l.BlockSent m n (r.take Config.payloadLen) d (r.drop Config.payloadLen)) : l.Delivers (d ++ r) := by
  have hacked := h.acked (List.length_take_le _ _)
  have hrest : l.step.step.Delivers (d ++ padTo128 (r.take Config.payloadLen) ++ r.drop Config.payloadLen) := by
    by_cases hlast : r.drop Config.payloadLen = []
    · rw [hlast] at hacked ⊢
      rw [List.append_nil]
      exact hacked.completes
    · exact Link.delivers_of_step (hacked.sent hlast).delivers
  rw [Link.Delivers, stripPad_padTo128_append] at hrest
  exact Link.delivers_of_step (Link.delivers_of_step hrest)
termination_by r.length
decreasing_by
  have hmore : 0 < (r.drop Config.payloadLen).length := List.length_pos_iff.mpr hlast
  rw [List.length_drop] at hmore ⊢
  exact Nat.sub_lt (by omega) (by decide)

/-- Settles O60: the set-up makes both codecs ready, and the first block goes out on the announcement. -/
theorem losslessLinkDeliversTheFile : Obligations.LosslessLinkDeliversTheFile :=
  ⟨fun boot m s => ⟨(ready_setUp boot m s).phase, (ready_setUp boot m s).mode, fun hboot => setUp_record hboot m s⟩,
   fun boot m _ a b hfile => Link.delivers_of_step (Link.start_sent boot m a b hfile).delivers⟩

end Sys2Proof.Machine
end

section
/-! The refusal of a command word (60 R231): what it writes, and that every word answered RERR = 1 met it. -/

namespace Sys2Proof.Machine

/-- Settles O31: the codes of the causes, and that a step answering RERR = 1 is the refusal of the word it took. -/
theorem refusalIsPrecise : Obligations.RefusalIsPrecise := by
  refine ⟨fun c s => ?_, fun s t w rest v hport h hresp => ?_⟩
  · cases c <;> rfl
  · obtain ⟨c, -, hrefused⟩ := refused_of_rerr hport h hresp
    exact ⟨c, hrefused⟩

end Sys2Proof.Machine
end

section
/-! The reset step (70 R260, R261): the values it leaves, read off `resetBlock`. -/

namespace Sys2Proof.Machine

/-- Settles O7: a reset step is `resetBlock` on the rest of the port, whose fields are those of `State.reset` but for the
three that are not the block's registers. -/
theorem stepAppliesReset : Obligations.StepAppliesReset :=
  fun _ _ hport => step_of_port_reset hport

end Sys2Proof.Machine
end
